-- ==== Sys2Proof/Word.lean ====
section
/-! DEFINITION. The word types of the machine and their plainest helpers (00_scope.md R7, R12). -/

namespace Sys2Proof

/-- An 8-bit value: a general register, a timer, a memory byte (R7, R16). -/
abbrev Byte := BitVec 8

/-- A 16-bit value: PC, I, a stack slot, an instruction word (R7, R65). -/
abbrev Word := BitVec 16

/-- The number of a general register, a 4-bit field of the instruction word (R20, R66). -/
abbrev RegIx := Fin 16

/-- The code of a logical key, 0x0..0xF (R30, R226). -/
abbrev KeyCode := BitVec 4

/-- The register that doubles as the flag (10_state.md R21). -/
abbrev regF : RegIx := 15

end Sys2Proof
end

