-- ==== Sys2Proof/Config.lean ====
section
/-! DEFINITION. What an implementation fixes (00_scope.md R7, R8, R9) and the free values (R10). -/

namespace Sys2Proof.Config

/-- MEM_SIZE (R7): addresses 0x000..0xFFF. -/
def memSize : Nat := 4096

/-- PROGRAM_BASE (R7): where a program is loaded and where PC starts. -/
def programBase : Nat := 0x200

/-- MAX_PROGRAM (R7): the longest program that fits from 0x200 to 0xFFF. -/
def maxProgram : Nat := 3584

/-- FONT (R9), the default table of 70_reset_and_hazards.md R241, 16 glyphs of 5 bytes.
PRESUMED for glyphs 1..F (log 9): the spec marks that table as general knowledge; glyph 0 is the source's own. -/
def font : List Byte :=
  [0xF0, 0x90, 0x90, 0x90, 0xF0,  0x20, 0x60, 0x20, 0x20, 0x70] ++
  [0xF0, 0x10, 0xF0, 0x80, 0xF0,  0xF0, 0x10, 0xF0, 0x10, 0xF0] ++
  [0x90, 0x90, 0xF0, 0x10, 0x10,  0xF0, 0x80, 0xF0, 0x10, 0xF0] ++
  [0xF0, 0x80, 0xF0, 0x90, 0xF0,  0xF0, 0x10, 0x20, 0x40, 0x40] ++
  [0xF0, 0x90, 0xF0, 0x90, 0xF0,  0xF0, 0x90, 0xF0, 0x10, 0xF0] ++
  [0xF0, 0x90, 0xF0, 0x90, 0x90,  0xE0, 0x90, 0xE0, 0x90, 0xE0] ++
  [0xF0, 0x80, 0x80, 0x80, 0xF0,  0xE0, 0x90, 0x90, 0x90, 0xE0] ++
  [0xF0, 0x80, 0xF0, 0x80, 0xF0,  0xF0, 0x80, 0xF0, 0x80, 0x80]

/-- CYCLES_PER_FRAME (R8): a parameter the spec leaves OPEN (D14). No body: nothing can evaluate it (log 8). -/
opaque cyclesPerFrame : Nat

/-- `rand_in` (R10, R133): the n-th draw the host has not spelled out in State. A free value, no law (D16, log 7). -/
opaque randIn : Nat → Byte

end Sys2Proof.Config
end

