-- ==== Sys2Proof/Syntax.lean ====
section
/-! DEFINITION. The instructions: one constructor per row of spec/opcode_table.json (30_encoding.md R73). -/

namespace Sys2Proof

/-- The 34 instructions. Operands are the fields of R66 at their own widths: `x`, `y` a register number, `kk` 8 bits,
`nnn` 12 bits, `n` 4 bits. A nibble the decoder ignores (R68, R69) is no operand. The word in the docstring is the row's pattern. -/
inductive Instr where
  /-- 00E0 `CLS` (R174) -/
  | cls
  /-- 00EE `RET` (R101) -/
  | ret
  /-- 1nnn `JP nnn` (R102) -/
  | jp (nnn : BitVec 12)
  /-- 2nnn `CALL nnn` (R103) -/
  | call (nnn : BitVec 12)
  /-- 3xkk `SE Vx, kk` (R104) -/
  | seImm (x : RegIx) (kk : Byte)
  /-- 4xkk `SNE Vx, kk` (R105) -/
  | sneImm (x : RegIx) (kk : Byte)
  /-- 5xyN `SE Vx, Vy`, N ignored (R106) -/
  | seReg (x y : RegIx)
  /-- 6xkk `LD Vx, kk` (R122) -/
  | ldImm (x : RegIx) (kk : Byte)
  /-- 7xkk `ADD Vx, kk` (R123) -/
  | addImm (x : RegIx) (kk : Byte)
  /-- 8xy0 `LD Vx, Vy` (R124) -/
  | ldReg (x y : RegIx)
  /-- 8xy1 `OR Vx, Vy` (R125) -/
  | orReg (x y : RegIx)
  /-- 8xy2 `AND Vx, Vy` (R126) -/
  | andReg (x y : RegIx)
  /-- 8xy3 `XOR Vx, Vy` (R127) -/
  | xorReg (x y : RegIx)
  /-- 8xy4 `ADD Vx, Vy` (R128) -/
  | addReg (x y : RegIx)
  /-- 8xy5 `SUB Vx, Vy` (R129) -/
  | subReg (x y : RegIx)
  /-- 8xy6 `SHR Vx, Vy` (R130) -/
  | shrReg (x y : RegIx)
  /-- 8xy7 `SUBN Vx, Vy` (R131) -/
  | subnReg (x y : RegIx)
  /-- 8xyE `SHL Vx, Vy` (R132) -/
  | shlReg (x y : RegIx)
  /-- 9xyN `SNE Vx, Vy`, N ignored (R107) -/
  | sneReg (x y : RegIx)
  /-- Annn `LD I, nnn` (R151) -/
  | ldI (nnn : BitVec 12)
  /-- Bnnn `JP V0, nnn` (R108) -/
  | jpV0 (nnn : BitVec 12)
  /-- Cxkk `RND Vx, kk` (R133) -/
  | rnd (x : RegIx) (kk : Byte)
  /-- Dxyn `DRW Vx, Vy, n` (R175) -/
  | drw (x y : RegIx) (n : BitVec 4)
  /-- Ex9E `SKP Vx` (R190) -/
  | skp (x : RegIx)
  /-- ExA1 `SKNP Vx` (R191) -/
  | sknp (x : RegIx)
  /-- Fx07 `LD Vx, DT` (R192) -/
  | ldVxDt (x : RegIx)
  /-- Fx0A `LD Vx, K` (R193) -/
  | ldVxK (x : RegIx)
  /-- Fx15 `LD DT, Vx` (R194) -/
  | ldDtVx (x : RegIx)
  /-- Fx18 `LD ST, Vx` (R195) -/
  | ldStVx (x : RegIx)
  /-- Fx1E `ADD I, Vx` (R152) -/
  | addI (x : RegIx)
  /-- Fx29 `LD F, Vx` (R153) -/
  | ldF (x : RegIx)
  /-- Fx33 `LD B, Vx` (R154) -/
  | ldB (x : RegIx)
  /-- Fx55 `LD [I], Vx` (R155) -/
  | storeRegs (x : RegIx)
  /-- Fx65 `LD Vx, [I]` (R156) -/
  | loadRegs (x : RegIx)
  deriving DecidableEq, Repr

end Sys2Proof
end

