-- ==== Sys2Proof/Decode.lean ====
section
/-! DEFINITION. The decoder of 30_encoding.md R65 to R72, total on any bytes, and the encoder written from the same encodings. -/

namespace Sys2Proof

/-! ## Fields (R66) -/

/-- `c = w[15:12]` -/
def fieldC (w : Word) : BitVec 4 := w.extractLsb' 12 4

/-- `x = w[11:8]` -/
def fieldX (w : Word) : RegIx := (w.extractLsb' 8 4).toFin

/-- `y = w[7:4]` -/
def fieldY (w : Word) : RegIx := (w.extractLsb' 4 4).toFin

/-- `n = w[3:0]` -/
def fieldN (w : Word) : BitVec 4 := w.extractLsb' 0 4

/-- `kk = w[7:0]` -/
def fieldKk (w : Word) : Byte := w.extractLsb' 0 8

/-- `nnn = w[11:0]` -/
def fieldNnn (w : Word) : BitVec 12 := w.extractLsb' 0 12

/-! ## Dispatch -/

/-- Class 0 is selected by the low byte and ignores `x` (R69). -/
def decodeClass0 (w : Word) : Option Instr :=
  match fieldKk w with
  | 0xE0#8 => some .cls
  | 0xEE#8 => some .ret
  | _ => none

/-- Class 8 is selected by the low nibble (R70). -/
def decodeClass8 (w : Word) : Option Instr :=
  match fieldN w with
  | 0x0#4 => some (.ldReg (fieldX w) (fieldY w))
  | 0x1#4 => some (.orReg (fieldX w) (fieldY w))
  | 0x2#4 => some (.andReg (fieldX w) (fieldY w))
  | 0x3#4 => some (.xorReg (fieldX w) (fieldY w))
  | 0x4#4 => some (.addReg (fieldX w) (fieldY w))
  | 0x5#4 => some (.subReg (fieldX w) (fieldY w))
  | 0x6#4 => some (.shrReg (fieldX w) (fieldY w))
  | 0x7#4 => some (.subnReg (fieldX w) (fieldY w))
  | 0xE#4 => some (.shlReg (fieldX w) (fieldY w))
  | _ => none

/-- Class E is selected by the low byte (R71). -/
def decodeClassE (w : Word) : Option Instr :=
  match fieldKk w with
  | 0x9E#8 => some (.skp (fieldX w))
  | 0xA1#8 => some (.sknp (fieldX w))
  | _ => none

/-- Class F is selected by the low byte (R72). -/
def decodeClassF (w : Word) : Option Instr :=
  match fieldKk w with
  | 0x07#8 => some (.ldVxDt (fieldX w))
  | 0x0A#8 => some (.ldVxK (fieldX w))
  | 0x15#8 => some (.ldDtVx (fieldX w))
  | 0x18#8 => some (.ldStVx (fieldX w))
  | 0x1E#8 => some (.addI (fieldX w))
  | 0x29#8 => some (.ldF (fieldX w))
  | 0x33#8 => some (.ldB (fieldX w))
  | 0x55#8 => some (.storeRegs (fieldX w))
  | 0x65#8 => some (.loadRegs (fieldX w))
  | _ => none

/-- The instruction of a word, `none` for an unknown word (R68, R74). -/
def decodeWord (w : Word) : Option Instr :=
  match fieldC w with
  | 0x0#4 => decodeClass0 w
  | 0x1#4 => some (.jp (fieldNnn w))
  | 0x2#4 => some (.call (fieldNnn w))
  | 0x3#4 => some (.seImm (fieldX w) (fieldKk w))
  | 0x4#4 => some (.sneImm (fieldX w) (fieldKk w))
  | 0x5#4 => some (.seReg (fieldX w) (fieldY w))
  | 0x6#4 => some (.ldImm (fieldX w) (fieldKk w))
  | 0x7#4 => some (.addImm (fieldX w) (fieldKk w))
  | 0x8#4 => decodeClass8 w
  | 0x9#4 => some (.sneReg (fieldX w) (fieldY w))
  | 0xA#4 => some (.ldI (fieldNnn w))
  | 0xB#4 => some (.jpV0 (fieldNnn w))
  | 0xC#4 => some (.rnd (fieldX w) (fieldKk w))
  | 0xD#4 => some (.drw (fieldX w) (fieldY w) (fieldN w))
  | 0xE#4 => decodeClassE w
  | _ => decodeClassF w

/-- Why bytes are no instruction. -/
inductive DecodeError where
  /-- Fewer than the two bytes every instruction has (R65, R77). -/
  | truncated
  /-- The word matches no row of the opcode map; the step runs it as a no-op (R74, R91). -/
  | unknownWord (w : Word)
  deriving DecidableEq, Repr

/-- The word of two bytes as the memory holds them: the byte at the lower address is bits 15:8 (R50, R65). -/
def wordOfBytes (hi lo : Byte) : Word := hi ++ lo

/-- The decoder on bytes: the first instruction and the bytes after it, always two consumed (R65). -/
def decodeBytes : List Byte → Except DecodeError (Instr × List Byte)
  | hi :: lo :: rest =>
    match decodeWord (wordOfBytes hi lo) with
    | some i => .ok (i, rest)
    | none => .error (.unknownWord (wordOfBytes hi lo))
  | _ => .error .truncated

/-! ## Encoder -/

/-- A register number as the 4 bits of its field. -/
def regBits (r : RegIx) : BitVec 4 := BitVec.ofFin r

/-- The word `{c, nnn}` of format A (R67). -/
def wordA (c : BitVec 4) (nnn : BitVec 12) : Word := c ++ nnn

/-- The word `{c, x, kk}` of formats XK and X (R67). -/
def wordXK (c : BitVec 4) (x : RegIx) (kk : Byte) : Word := c ++ (regBits x ++ kk : BitVec 12)

/-- The word `{c, x, y, n}` of formats XY and XYN (R67). -/
def wordXYN (c : BitVec 4) (x y : RegIx) (n : BitVec 4) : Word := c ++ (regBits x ++ (regBits y ++ n : BitVec 8) : BitVec 12)

/-- The word of an instruction (R73). DESIGN CHOICE (log 13): a nibble the decoder ignores is written as 0. -/
def encode : Instr → Word
  | .cls => 0x00E0
  | .ret => 0x00EE
  | .jp nnn => wordA 0x1 nnn
  | .call nnn => wordA 0x2 nnn
  | .seImm x kk => wordXK 0x3 x kk
  | .sneImm x kk => wordXK 0x4 x kk
  | .seReg x y => wordXYN 0x5 x y 0
  | .ldImm x kk => wordXK 0x6 x kk
  | .addImm x kk => wordXK 0x7 x kk
  | .ldReg x y => wordXYN 0x8 x y 0x0
  | .orReg x y => wordXYN 0x8 x y 0x1
  | .andReg x y => wordXYN 0x8 x y 0x2
  | .xorReg x y => wordXYN 0x8 x y 0x3
  | .addReg x y => wordXYN 0x8 x y 0x4
  | .subReg x y => wordXYN 0x8 x y 0x5
  | .shrReg x y => wordXYN 0x8 x y 0x6
  | .subnReg x y => wordXYN 0x8 x y 0x7
  | .shlReg x y => wordXYN 0x8 x y 0xE
  | .sneReg x y => wordXYN 0x9 x y 0
  | .ldI nnn => wordA 0xA nnn
  | .jpV0 nnn => wordA 0xB nnn
  | .rnd x kk => wordXK 0xC x kk
  | .drw x y n => wordXYN 0xD x y n
  | .skp x => wordXK 0xE x 0x9E
  | .sknp x => wordXK 0xE x 0xA1
  | .ldVxDt x => wordXK 0xF x 0x07
  | .ldVxK x => wordXK 0xF x 0x0A
  | .ldDtVx x => wordXK 0xF x 0x15
  | .ldStVx x => wordXK 0xF x 0x18
  | .addI x => wordXK 0xF x 0x1E
  | .ldF x => wordXK 0xF x 0x29
  | .ldB x => wordXK 0xF x 0x33
  | .storeRegs x => wordXK 0xF x 0x55
  | .loadRegs x => wordXK 0xF x 0x65

/-! ## The host's numbering of a table word -/

/-- The bytes, lowest address first, of an instruction whose bits are `w`: high byte first (R50). The table gives every row 16 bits. -/
def tableBytes (nbits w : Nat) : List Byte :=
  [(BitVec.ofNat 16 (w % 2 ^ nbits)).extractLsb' 8 8, (BitVec.ofNat 16 (w % 2 ^ nbits)).extractLsb' 0 8]

/-- What the decoder reads from those bytes, `none` where it refuses. -/
def decodeTableWord (nbits w : Nat) : Option Instr :=
  match decodeBytes (tableBytes nbits w) with
  | .ok (i, _) => some i
  | .error _ => none

end Sys2Proof
end

