-- ==== Sys2Proof/Machine/State.lean ====
section
/-! DEFINITION. The state of the CORE block (10_state.md) as plain data, its reset value (R38), and the reasons a step could stop. -/

namespace Sys2Proof.Machine

/-- A memory: the bytes that differ from the reset contents, as (address, byte) pairs in rising order of address (log 11). -/
abbrev Memory := List Host.Cell

/-- DISP (R29): 32 rows of 64 cells; bit `cx` of row `cy` is cell `(cx, cy)`, whose linear index is `cx + cy*64` (44_display.md R170,
log 12). -/
abbrev Display := Vector (BitVec 64) 32

/-- FAULT_CAUSE (R32, 60_exceptions.md R210). The machine goes on in the state the fault leaves (R211, R212). -/
inductive FaultCause where
  /-- code 0: no fault -/
  | noFault
  /-- code 1: FETCH_OOB, by the fetch of any step -/
  | fetchOob
  /-- code 2: MEM_OOB, by Dxyn, Fx33, Fx55, Fx65 -/
  | memOob
  /-- code 3: STACK_OVERFLOW, by 2nnn -/
  | stackOverflow
  /-- code 4: STACK_UNDERFLOW, by 00EE -/
  | stackUnderflow
  deriving DecidableEq, Repr

/-- PHASE of the frame controller (R33). -/
inductive Phase where
  | idle
  | exec
  | tick
  deriving DecidableEq, Repr

/-- A command the host issues in IDLE (40_fetch_execute.md R85, 70_reset_and_hazards.md R240, R243). -/
inductive Command where
  | reset
  | load (bytes : List Byte)
  | frame (keyIn : Option KeyCode)
  deriving DecidableEq, Repr

/-- What the block answers to a command: `frame_done` (R85), `OK` of load (R243), LOAD_TOO_LARGE (R244). -/
inductive Reply where
  | frameDone
  | loadOk
  | loadTooLarge
  deriving DecidableEq, Repr

/-- OUT_DIAG (R34, 60_exceptions.md R228). -/
structure Diag where
  pc : Word
  i : Word
  sp : Fin 16
  dt : Byte
  st : Byte
  key : Option KeyCode
  faultCause : FaultCause
  faultPc : Word
  deriving DecidableEq, Repr

/-- The host's side of the block, the model's own fields: what the host has put to it, and the answer it reads.
`commands`: issued and not yet taken, oldest first (log 4). `rand`: draws of `rand_in` supplied, oldest first; `draws`: how many
draws were consumed (log 7). `cyclesPerFrame`: the parameter of R8 (log 8). `reply`: the answer to the last command (log 6). -/
structure HostPort where
  commands : List Command
  rand : List Byte
  draws : Nat
  cyclesPerFrame : Nat
  reply : Option Reply
  deriving DecidableEq, Repr

/-- Everything the spec gives the machine (10_state.md R20 to R34), under the spec's names, and the host's side. -/
structure State where
  /-- V0..VF (R20) -/
  v : Vector Byte 16
  /-- the index register I (R23) -/
  i : Word
  /-- PC (R24) -/
  pc : Word
  /-- SP, 0..15 (R26) -/
  sp : Fin 16
  /-- STACK[0..15] (R25) -/
  stack : Vector Word 16
  /-- DT (R27) -/
  dt : Byte
  /-- ST (R28) -/
  st : Byte
  /-- DISP (R29) -/
  disp : Display
  /-- KEY (R30) -/
  key : Option KeyCode
  /-- MEM (R31) -/
  mem : Memory
  /-- FAULT_CAUSE (R32) -/
  faultCause : FaultCause
  /-- FAULT_PC (R32) -/
  faultPc : Word
  /-- PHASE (R33) -/
  phase : Phase
  /-- CYC (R33) -/
  cyc : Nat
  /-- OUT_DISP (R34) -/
  outDisp : Display
  /-- OUT_SOUND (R34) -/
  outSound : Bool
  /-- OUT_DIAG (R34) -/
  outDiag : Diag
  /-- the host's side (log 4, 6, 7, 8) -/
  port : HostPort
  deriving DecidableEq, Repr

/-- A stop of the model with a fault. There is none: every fault the spec describes is a next state (R211, R212), so the type has
no constructor and no step can answer one. Safe (log 2). -/
inductive Fault
  deriving DecidableEq, Repr

/-- A stop of the model with a refusal. -/
inductive Refusal where
  /-- Raised only by an arm of `exec` whose instruction has no meaning yet; no arm is left so. Safe: the run stops. -/
  | notModelled (mnemonic : String)
  deriving DecidableEq, Repr

/-- The state right after reset (R38, R240): memory lists nothing, so every byte reads as its reset contents. The host's side is
the model's own: no command, no draw, no answer, and the open parameter of R8 (log 4, 6, 7, 8). -/
def State.reset : State where
  v := Vector.replicate 16 0
  i := 0
  pc := 0x200
  sp := 0
  stack := Vector.replicate 16 0
  dt := 0
  st := 0
  disp := Vector.replicate 32 0
  key := none
  mem := []
  faultCause := .noFault
  faultPc := 0
  phase := .idle
  cyc := 0
  outDisp := Vector.replicate 32 0
  outSound := false
  outDiag := { pc := 0x200, i := 0, sp := 0, dt := 0, st := 0, key := none, faultCause := .noFault, faultPc := 0 }
  port := { commands := [], rand := [], draws := 0, cyclesPerFrame := Config.cyclesPerFrame, reply := none }

end Sys2Proof.Machine
end

