-- ==== Sys2Proof/Machine/Ops.lean ====
section
/-! DEFINITION. The named operations over memory and registers, taking a fault, and the host's operations on the whole block. -/

namespace Sys2Proof.Machine

/-! ## Memory (20_memory.md) -/

/-- What an address nothing has written reads as: the reset contents, FONT at 0x000..0x04F and zero elsewhere (R38, R46, R241). -/
def Memory.resetByte (a : Nat) : Byte := Config.font.getD a 0

/-- `MEM[a]`, for an address already checked (R48). -/
def Memory.read : Memory → Nat → Byte
  | [], a => Memory.resetByte a
  | (k, b) :: m, a => if k = a then b else Memory.read m a

/-- Put a cell in its place in a list of rising addresses. -/
def Memory.insertCell (c : Host.Cell) : Memory → Memory
  | [] => [c]
  | d :: m => if c.1 < d.1 then c :: d :: m else d :: Memory.insertCell c m

/-- The memory without an entry for `a`. -/
def Memory.erase (m : Memory) (a : Nat) : Memory := m.filter fun c => c.1 != a

/-- `MEM[a] <- b`, for an address already checked (R48). Writing the reset byte removes the entry, so equal memories are equal lists (log 11). -/
def Memory.write (m : Memory) (a : Nat) (b : Byte) : Memory :=
  if b = Memory.resetByte a then Memory.erase m a else Memory.insertCell (a, b) (Memory.erase m a)

/-- Bytes written to consecutive addresses, ascending from `a` (R52). -/
def Memory.writeBytes (m : Memory) (a : Nat) : List Byte → Memory
  | [] => m
  | b :: bs => Memory.writeBytes (Memory.write m a b) (a + 1) bs

/-- The addresses of a list rise strictly, starting above `lo`. -/
def Memory.risesFrom : Nat → Memory → Bool
  | _, [] => true
  | lo, (a, _) :: m => lo ≤ a && Memory.risesFrom (a + 1) m

/-- The canonical form, the model's choice (log 11): addresses rise strictly, and no entry equals what an unlisted address reads as;
the addresses listed exist (R45). -/
def Memory.wf (m : Memory) : Bool :=
  Memory.risesFrom 0 m && m.all fun c => c.1 < Config.memSize && c.2 != Memory.resetByte c.1

/-- The address check of R48, on the unbounded address: `a` exists unless `a > 0xFFF`. -/
def addressExists (a : Nat) : Bool := a < Config.memSize

/-- The check of a whole range of `n` bytes from `base`, made before any write (R154 to R156, R176). -/
def spanExists (base n : Nat) : Bool := n = 0 || addressExists (base + n - 1)

/-! ## Writes of single pieces of state -/

/-- `V[x] <- b` (R15, R20): no register is hard-wired. -/
def State.setReg (s : State) (x : RegIx) (b : Byte) : State := { s with v := s.v.set x b }

/-- `PC <- target` (R24). -/
def State.setPc (s : State) (target : Word) : State := { s with pc := target }

/-- `I <- a` (R23). -/
def State.setIndex (s : State) (a : Word) : State := { s with i := a }

/-- `DT <- b` (R27). -/
def State.setDelay (s : State) (b : Byte) : State := { s with dt := b }

/-- `ST <- b` (R28). -/
def State.setSound (s : State) (b : Byte) : State := { s with st := b }

/-- A new contents of DISP (R29). -/
def State.setDisp (s : State) (d : Display) : State := { s with disp := d }

/-- A new contents of MEM (R31). -/
def State.setMem (s : State) (m : Memory) : State := { s with mem := m }

/-- A new contents of the register file, for the block load (R156). -/
def State.setRegs (s : State) (v : Vector Byte 16) : State := { s with v := v }

/-! ## Program counter and call stack -/

/-- The fetch advance (R89). -/
def State.advance (s : State) : State := s.setPc (s.pc + 2)

/-- The address of the instruction a meaning runs: every rule sees PC = a + 2 (R89), so it is PC - 2 (log 1). -/
def State.instrAddr (s : State) : Word := s.pc - 2

/-- `if c: skip` (R100). -/
def State.skipIf (s : State) (c : Bool) : State := if c then s.setPc (s.pc + 2) else s

/-- `SP <- SP + 1; STACK[SP] <- PC` (R103); the overflow check comes before it. -/
def State.pushPc (s : State) : State := { s with sp := s.sp + 1, stack := s.stack.set (s.sp + 1 : Fin 16) s.pc }

/-- `PC <- STACK[SP]; SP <- SP - 1` (R101); the underflow check comes before it, and the slot keeps its value. -/
def State.popPc (s : State) : State := { s with pc := s.stack[s.sp], sp := s.sp - 1 }

/-! ## Taking a fault (60_exceptions.md R210, R211). There is no return from one (R218): the way out is reset or load. -/

/-- The code of a cause (R210); 5..7 are never produced. -/
def FaultCause.code : FaultCause → BitVec 3
  | .noFault => 0
  | .fetchOob => 1
  | .memOob => 2
  | .stackOverflow => 3
  | .stackUnderflow => 4

/-- `raise Fault(cause)` in the step of the instruction at `a` (R211): these three writes and nothing else. -/
def State.raiseFault (s : State) (cause : FaultCause) (a : Word) : State :=
  { s with faultCause := cause, faultPc := a, pc := a }

/-- Raise `cause` for the running instruction unless the check before its first write passes (R211). -/
def State.guardFault (s : State) (ok : Bool) (cause : FaultCause) (body : State) : State :=
  if ok then body else s.raiseFault cause s.instrAddr

/-! ## Random draws (R10, R229) -/

/-- The draw the next Cxkk consumes: the host's, or a free value where the host has spelled out none (log 7). -/
def HostPort.nextDraw (p : HostPort) : Byte :=
  match p.rand with
  | r :: _ => r
  | [] => Config.randIn p.draws

/-- One draw consumed. -/
def State.takeDraw (s : State) : State :=
  { s with port := { s.port with rand := s.port.rand.tail, draws := s.port.draws + 1 } }

/-! ## The frame controller's and the host's operations (R85, R220 to R225, R240, R243) -/

/-- The timer tick of one timer, floored at 0 (R220). -/
def tickTimer (t : Byte) : Byte := if t = 0 then 0 else t - 1

/-- The timer tick (R220). -/
def State.tickTimers (s : State) : State := { s with dt := tickTimer s.dt, st := tickTimer s.st }

/-- The tuple OUT_DIAG is a copy of (R34, R228). -/
def State.diag (s : State) : Diag :=
  { pc := s.pc, i := s.i, sp := s.sp, dt := s.dt, st := s.st, key := s.key, faultCause := s.faultCause, faultPc := s.faultPc }

/-- The sound predicate (R222). -/
def State.sound (s : State) : Bool := s.st != 0

/-- Publish the outputs (R34). -/
def State.publish (s : State) : State := { s with outDisp := s.disp, outSound := s.sound, outDiag := s.diag }

/-- One step slot of the frame used: `CYC <- CYC - 1` (R85). -/
def State.endSlot (s : State) : State := { s with cyc := s.cyc - 1 }

/-- IDLE to EXEC (R85): latch the key (R223), load CYC; `rest` is what the host has still to say. -/
def State.startFrame (s : State) (keyIn : Option KeyCode) (rest : List Command) : State :=
  { s with key := keyIn, cyc := s.port.cyclesPerFrame, phase := .exec,
           port := { s.port with commands := rest, reply := none } }

/-- EXEC with CYC = 0 (R85). -/
def State.endExec (s : State) : State := { s with phase := .tick }

/-- TICK (R85): timer tick, publish, clear the key (R225), signal frame_done. -/
def State.endFrame (s : State) : State :=
  let t := s.tickTimers.publish
  { t with key := none, phase := .idle, port := { t.port with reply := some .frameDone } }

/-- Reset (R240): every piece of the machine's state; the host's side stays the host's (log 4, 7, 8). -/
def State.resetBlock (s : State) (rest : List Command) : State :=
  { State.reset with port := { s.port with commands := rest, reply := none } }

/-- Load (R243, R244): refused whole when the program does not fit, else reset and copy to 0x200. -/
def State.loadProgram (s : State) (bytes : List Byte) (rest : List Command) : State :=
  if fitsProgramArea bytes then
    { State.reset with mem := Memory.writeBytes [] Config.programBase bytes,
                       port := { s.port with commands := rest, reply := some .loadOk } }
  else { s with port := { s.port with commands := rest, reply := some .loadTooLarge } }

end Sys2Proof.Machine
end

