-- ==== Sys2Proof/Machine/Operands.lean ====
section
/-! DEFINITION. The operand forms of 30_encoding.md R67 and 43_index_memory.md R150: registers, immediates, and memory at I plus an offset. -/

namespace Sys2Proof.Machine

/-- A register operand `V[x]` (R15, R67). -/
def State.reg (s : State) (x : RegIx) : Byte := s.v[x]

/-- An immediate address or addend `nnn` at the width of PC and I (R66, R67: no sign extension). -/
def immAddr (nnn : BitVec 12) : Word := nnn.setWidth 16

/-- An 8-bit register value as a 16-bit addend (R12: every value is unsigned). -/
def zext16 (b : Byte) : Word := b.setWidth 16

/-- The effective address `I + offset`, an unbounded sum (R150). -/
def State.indexAddr (s : State) (offset : Nat) : Nat := s.i.toNat + offset

/-- The byte operand at I plus an offset (R150). -/
def State.indexByte (s : State) (offset : Nat) : Byte := Memory.read s.mem (s.indexAddr offset)

/-- Whether the `n` bytes from I exist (R150, R154 to R156, R176). -/
def State.indexSpanExists (s : State) (n : Nat) : Bool := spanExists s.i.toNat n

/-- The registers V0..Vx of a block instruction, ascending and inclusive (R155, R156). -/
def regsUpTo (x : RegIx) : List RegIx := (List.finRange 16).filter fun r => r ≤ x

/-- The three decimal digits of Fx33: hundreds, tens, ones (R154). -/
def decimalDigits (b : Byte) : List Byte := [b / 100, b / 10 % 10, b % 10]

/-- `KEY = key(k) and k = V[x]` (R190): the latch is only read. -/
def State.keyMatches (s : State) (x : RegIx) : Bool :=
  match s.key with
  | some k => k.setWidth 8 == s.reg x
  | none => false

/-- The start row of a draw, `Vy mod 32`, after VF was cleared (R175, R179). -/
def State.drawRow (s : State) (y : RegIx) : Nat := if y = regF then 0 else (s.reg y).toNat % 32

/-- How many rows a draw processes: those above the bottom edge (R175, R177). -/
def State.drawRows (s : State) (y : RegIx) (n : BitVec 4) : Nat := min n.toNat (32 - s.drawRow y)

/-- The instruction word at PC, high byte at the lower address; none when PC + 1 does not exist (R50, R88). Any PC, odd ones too (R51). -/
def State.fetchWord (s : State) : Option Word :=
  if addressExists (s.pc.toNat + 1) then
    some (wordOfBytes (Memory.read s.mem s.pc.toNat) (Memory.read s.mem (s.pc.toNat + 1)))
  else none

end Sys2Proof.Machine
end

