-- ==== Sys2Proof/Machine/Flags.lean ====
section
/-! DEFINITION. The flag computations: VF is the only flag (10_state.md R21, R37; 42_alu.md R120, R121; 44_display.md R178). -/

namespace Sys2Proof.Machine

/-- A truth value as the flag stores it: 1 or 0 (42_alu.md R128 to R132). -/
def flagByte (b : Bool) : Byte := if b then 1 else 0

/-- Carry out of bit 7 of the sum (R128). -/
def carryFlag (vx vy : Byte) : Byte := flagByte (vx.toNat + vy.toNat > 255)

/-- The strict subtraction flag: the minuend is greater than the subtrahend (R121, R129, R131). -/
def greaterFlag (minuend subtrahend : Byte) : Byte := flagByte (minuend.toNat > subtrahend.toNat)

/-- Bit 0 of the old Vx (R130). -/
def lowBitFlag (vx : Byte) : Byte := flagByte (vx.getLsbD 0)

/-- Bit 7 of the old Vx (R132). -/
def highBitFlag (vx : Byte) : Byte := flagByte (vx.getLsbD 7)

/-- Write VF first and Vx second, both from operands latched before (R120): with x = 0xF the result wins. -/
def State.setFlagThenReg (s : State) (x : RegIx) (flag result : Byte) : State := (s.setReg regF flag).setReg x result

/-- A toggle that leaves its cell OFF is a collision: VF <- 1, never reset to 0 within the draw (R178). -/
def State.noteCollision (s : State) (nowOff : Bool) : State := if nowOff then s.setReg regF 1 else s

end Sys2Proof.Machine
end

