-- ==== Sys2Proof/Machine/Alu.lean ====
section
/-! DEFINITION. Register loads and the ALU (42_alu.md). None touches memory or PC, none can fault. -/

namespace Sys2Proof.Machine

/-- 6xkk `LD Vx, kk` (R122). -/
def execLdImm (x : RegIx) (kk : Byte) (s : State) : Host.Outcome State Fault Refusal :=
  .next (s.setReg x kk)

/-- 7xkk `ADD Vx, kk`: wraps, no flag (R123). -/
def execAddImm (x : RegIx) (kk : Byte) (s : State) : Host.Outcome State Fault Refusal :=
  .next (s.setReg x (s.reg x + kk))

/-- 8xy0 `LD Vx, Vy` (R124). -/
def execLdReg (x y : RegIx) (s : State) : Host.Outcome State Fault Refusal :=
  .next (s.setReg x (s.reg y))

/-- 8xy1 `OR Vx, Vy` (R125). -/
def execOrReg (x y : RegIx) (s : State) : Host.Outcome State Fault Refusal :=
  .next (s.setReg x (s.reg x ||| s.reg y))

/-- 8xy2 `AND Vx, Vy` (R126). -/
def execAndReg (x y : RegIx) (s : State) : Host.Outcome State Fault Refusal :=
  .next (s.setReg x (s.reg x &&& s.reg y))

/-- 8xy3 `XOR Vx, Vy` (R127). -/
def execXorReg (x y : RegIx) (s : State) : Host.Outcome State Fault Refusal :=
  .next (s.setReg x (s.reg x ^^^ s.reg y))

/-- 8xy4 `ADD Vx, Vy` (R128). -/
def execAddReg (x y : RegIx) (s : State) : Host.Outcome State Fault Refusal :=
  .next (s.setFlagThenReg x (carryFlag (s.reg x) (s.reg y)) (s.reg x + s.reg y))

/-- 8xy5 `SUB Vx, Vy` (R129). -/
def execSubReg (x y : RegIx) (s : State) : Host.Outcome State Fault Refusal :=
  .next (s.setFlagThenReg x (greaterFlag (s.reg x) (s.reg y)) (s.reg x - s.reg y))

/-- 8xy6 `SHR Vx, Vy`: the flag from Vx, the shifted value from Vy (R130). -/
def execShrReg (x y : RegIx) (s : State) : Host.Outcome State Fault Refusal :=
  .next (s.setFlagThenReg x (lowBitFlag (s.reg x)) (s.reg y >>> 1))

/-- 8xy7 `SUBN Vx, Vy` (R131). -/
def execSubnReg (x y : RegIx) (s : State) : Host.Outcome State Fault Refusal :=
  .next (s.setFlagThenReg x (greaterFlag (s.reg y) (s.reg x)) (s.reg y - s.reg x))

/-- 8xyE `SHL Vx, Vy`: the flag from Vx, the shifted value from Vy (R132). -/
def execShlReg (x y : RegIx) (s : State) : Host.Outcome State Fault Refusal :=
  .next (s.setFlagThenReg x (highBitFlag (s.reg x)) (s.reg y <<< 1))

/-- Cxkk `RND Vx, kk`: one fresh draw, masked (R133). -/
def execRnd (x : RegIx) (kk : Byte) (s : State) : Host.Outcome State Fault Refusal :=
  .next (s.takeDraw.setReg x (s.port.nextDraw &&& kk))

end Sys2Proof.Machine
end

