-- ==== Sys2Proof/Machine/ControlFlow.lean ====
section
/-! DEFINITION. Control flow (41_control_flow.md). Every meaning sees PC = a + 2 (R89, log 1). -/

namespace Sys2Proof.Machine

/-- 00EE `RET` (R101). -/
def execRet (s : State) : Host.Outcome State Fault Refusal :=
  .next (s.guardFault (s.sp != 0) .stackUnderflow s.popPc)

/-- 1nnn `JP nnn` (R102). -/
def execJp (nnn : BitVec 12) (s : State) : Host.Outcome State Fault Refusal :=
  .next (s.setPc (immAddr nnn))

/-- 2nnn `CALL nnn` (R103). -/
def execCall (nnn : BitVec 12) (s : State) : Host.Outcome State Fault Refusal :=
  .next (s.guardFault (s.sp != 15) .stackOverflow (s.pushPc.setPc (immAddr nnn)))

/-- 3xkk `SE Vx, kk` (R104). -/
def execSeImm (x : RegIx) (kk : Byte) (s : State) : Host.Outcome State Fault Refusal :=
  .next (s.skipIf (s.reg x == kk))

/-- 4xkk `SNE Vx, kk` (R105). -/
def execSneImm (x : RegIx) (kk : Byte) (s : State) : Host.Outcome State Fault Refusal :=
  .next (s.skipIf (s.reg x != kk))

/-- 5xyN `SE Vx, Vy` (R106). -/
def execSeReg (x y : RegIx) (s : State) : Host.Outcome State Fault Refusal :=
  .next (s.skipIf (s.reg x == s.reg y))

/-- 9xyN `SNE Vx, Vy` (R107). -/
def execSneReg (x y : RegIx) (s : State) : Host.Outcome State Fault Refusal :=
  .next (s.skipIf (s.reg x != s.reg y))

/-- Bnnn `JP V0, nnn`: relative to the advanced PC, and always V0 (R108). -/
def execJpV0 (nnn : BitVec 12) (s : State) : Host.Outcome State Fault Refusal :=
  .next (s.setPc (s.pc + immAddr nnn + zext16 (s.reg 0)))

end Sys2Proof.Machine
end

