-- ==== Sys2Proof/Machine/DisplayUnit.lean ====
section
/-! DEFINITION. The display unit and its instructions (44_display.md). -/

namespace Sys2Proof.Machine

/-- The display row that a coordinate names, wrapped (R171). -/
def rowIndex (py : Nat) : Fin 32 := Fin.ofNat 32 py

/-- Is cell `(cx, cy)` on (R170)? Both coordinates wrap, so that every pair names a cell. -/
def Display.cell (d : Display) (cx cy : Nat) : Bool := d[rowIndex cy].getLsbD (cx % 64)

/-- `Toggle(px, py)`: flip the cell, answer whether it is now OFF (R171). -/
def Display.toggle (d : Display) (px py : Nat) : Display × Bool :=
  let d' : Display := d.set (rowIndex py) (d[rowIndex py] ^^^ BitVec.twoPow 64 (px % 64))
  (d', !Display.cell d' px py)

/-- `ClearDisplay()` (R172). -/
def Display.clear : Display := Vector.replicate 32 0

/-- `if Toggle(cx, cy): V[0xF] <- 1` (R175). -/
def State.toggleCell (s : State) (cx cy : Nat) : State :=
  (s.setDisp (Display.toggle s.disp cx cy).1).noteCollision (Display.toggle s.disp cx cy).2

/-- The bits `k-1` down to 0 of a row byte, the next one at column `cx`: a 1 bit toggles, and the row ends past column 63 (R175, R177). -/
def drawBits (b : Byte) (cy : Nat) : Nat → Nat → State → State
  | 0, _, s => s
  | k + 1, cx, s =>
    let t := if b.getLsbD k then s.toggleCell cx cy else s
    if cx + 1 > 63 then t else drawBits b cy k (cx + 1) t

/-- The remaining `rows` rows, the next one being row `r` of the sprite at display row `cy`; the start column is read afresh from Vx
for each row (R175, R179). -/
def drawSprite (x : RegIx) : (rows r cy : Nat) → State → State
  | 0, _, _, s => s
  | rows + 1, r, cy, s =>
    drawSprite x rows (r + 1) (cy + 1) (drawBits (s.indexByte r) cy 8 ((s.reg x).toNat % 64) s)

/-- 00E0 `CLS` (R174). -/
def execCls (s : State) : Host.Outcome State Fault Refusal :=
  .next (s.setDisp Display.clear)

/-- Dxyn `DRW Vx, Vy, n` (R175): the rows to be read are checked (R176), VF is cleared, then Vy and each row's Vx are read (R179). -/
def execDrw (x y : RegIx) (n : BitVec 4) (s : State) : Host.Outcome State Fault Refusal :=
  .next (s.guardFault (s.indexSpanExists (s.drawRows y n)) .memOob
    (drawSprite x (s.drawRows y n) 0 (s.drawRow y) (s.setReg regF 0)))

end Sys2Proof.Machine
end

