-- ==== Sys2Proof/Machine/IndexMemory.lean ====
section
/-! DEFINITION. The index register and the memory block instructions (43_index_memory.md). -/

namespace Sys2Proof.Machine

/-- Annn `LD I, nnn` (R151). -/
def execLdI (nnn : BitVec 12) (s : State) : Host.Outcome State Fault Refusal :=
  .next (s.setIndex (immAddr nnn))

/-- Fx1E `ADD I, Vx`: 16 bits, no flag (R152). -/
def execAddI (x : RegIx) (s : State) : Host.Outcome State Fault Refusal :=
  .next (s.setIndex (s.i + zext16 (s.reg x)))

/-- Fx29 `LD F, Vx`: the whole byte, five bytes a glyph (R153). -/
def execLdF (x : RegIx) (s : State) : Host.Outcome State Fault Refusal :=
  .next (s.setIndex (5 * zext16 (s.reg x)))

/-- Store bytes from I on; the whole range is checked before any write (R154, R155). -/
def State.storeAtIndex (s : State) (bytes : List Byte) : State :=
  s.guardFault (s.indexSpanExists bytes.length) .memOob (s.setMem (Memory.writeBytes s.mem (s.indexAddr 0) bytes))

/-- Fx33 `LD B, Vx` (R154). -/
def execLdB (x : RegIx) (s : State) : Host.Outcome State Fault Refusal :=
  .next (s.storeAtIndex (decimalDigits (s.reg x)))

/-- Fx55 `LD [I], Vx` (R155). -/
def execStoreRegs (x : RegIx) (s : State) : Host.Outcome State Fault Refusal :=
  .next (s.storeAtIndex ((regsUpTo x).map s.reg))

/-- `V[i] <- MEM[I + i]` for each register of the list in turn (R156). -/
def loadRegFile (s : State) : List RegIx → Vector Byte 16 → Vector Byte 16
  | [], v => v
  | r :: rs, v => loadRegFile s rs (v.set r (s.indexByte r.val))

/-- Fx65 `LD Vx, [I]` (R156). -/
def execLoadRegs (x : RegIx) (s : State) : Host.Outcome State Fault Refusal :=
  .next (s.guardFault (s.indexSpanExists (x.val + 1)) .memOob (s.setRegs (loadRegFile s (regsUpTo x) s.v)))

end Sys2Proof.Machine
end

