-- ==== Sys2Proof/Machine/InputTimers.lean ====
section
/-! DEFINITION. The key-dependent and timer instructions (45_input_timers.md). KEY is read and never cleared (R224). -/

namespace Sys2Proof.Machine

/-- Ex9E `SKP Vx` (R190). -/
def execSkp (x : RegIx) (s : State) : Host.Outcome State Fault Refusal :=
  .next (s.skipIf (s.keyMatches x))

/-- ExA1 `SKNP Vx` (R191). -/
def execSknp (x : RegIx) (s : State) : Host.Outcome State Fault Refusal :=
  .next (s.skipIf (!s.keyMatches x))

/-- Fx07 `LD Vx, DT` (R192). -/
def execLdVxDt (x : RegIx) (s : State) : Host.Outcome State Fault Refusal :=
  .next (s.setReg x s.dt)

/-- Fx0A `LD Vx, K`: with no key, back to this instruction (R193). -/
def execLdVxK (x : RegIx) (s : State) : Host.Outcome State Fault Refusal :=
  match s.key with
  | none => .next (s.setPc (s.pc - 2))
  | some k => .next (s.setReg x (k.setWidth 8))

/-- Fx15 `LD DT, Vx` (R194). -/
def execLdDtVx (x : RegIx) (s : State) : Host.Outcome State Fault Refusal :=
  .next (s.setDelay (s.reg x))

/-- Fx18 `LD ST, Vx` (R195). -/
def execLdStVx (x : RegIx) (s : State) : Host.Outcome State Fault Refusal :=
  .next (s.setSound (s.reg x))

end Sys2Proof.Machine
end

