-- ==== Sys2Proof/Machine/Frame.lean ====
section
/-! DEFINITION. One instruction step and the frame controller's transitions (40_fetch_execute.md R85, R87 to R92). -/

namespace Sys2Proof.Machine

/-- `Execute` of a word that matches no row: nothing beyond the fetch advance (R91). -/
def execUnknown (s : State) : Host.Outcome State Fault Refusal := .next s

/-- `Execute(w, a)` on the state after the fetch advance (R90, R91). -/
def execWord (w : Word) (s : State) : Host.Outcome State Fault Refusal :=
  match decodeWord w with
  | some i => exec i s
  | none => execUnknown s

/-- `Step()` (R87): fetch, advance, execute; a fetch out of range faults with nothing read and nothing changed (R88). -/
def instrStep (s : State) : Host.Outcome State Fault Refusal :=
  match s.fetchWord with
  | some w => execWord w s.advance
  | none => .next (s.raiseFault .fetchOob s.pc)

/-- What follows a step that went on. -/
def onNext (f : State → State) : Host.Outcome State Fault Refusal → Host.Outcome State Fault Refusal
  | .next s => .next (f s)
  | .fault r => .fault r
  | .refused r => .refused r

/-- IDLE (R85, R240, R243): take the host's next command; with none the state is held (R231, log 5). -/
def idleStep (s : State) : State :=
  match s.port.commands with
  | [] => s
  | .reset :: rest => s.resetBlock rest
  | .load bytes :: rest => s.loadProgram bytes rest
  | .frame keyIn :: rest => s.startFrame keyIn rest

/-- EXEC (R85): a step slot, idle once a fault is recorded (R92), or the end of the slots. -/
def execStep (s : State) : Host.Outcome State Fault Refusal :=
  if s.cyc = 0 then .next s.endExec
  else if s.faultCause = .noFault then onNext State.endSlot (instrStep s)
  else .next s.endSlot

/-- One transition of R85's table. -/
def controllerStep (s : State) : Host.Outcome State Fault Refusal :=
  match s.phase with
  | .idle => .next (idleStep s)
  | .exec => execStep s
  | .tick => .next s.endFrame

/-- The address the next step can fetch from: PC, or the entry point where PC is out of the fetch's range (log 14). -/
def State.fetchable (s : State) : Word := if addressExists (s.pc.toNat + 1) then s.pc else 0x200

/-- `s` with the bytes stored where the next step fetches, in a step slot of a frame of a core that has not faulted (log 14). -/
def State.placeBytes (s : State) (bytes : List Byte) : State :=
  { s with phase := .exec, cyc := if s.cyc = 0 then 1 else s.cyc, faultCause := .noFault, pc := s.fetchable,
           mem := Memory.writeBytes s.mem s.fetchable.toNat bytes }

end Sys2Proof.Machine
end

