-- ==== Sys2Proof/Machine/Step.lean ====
section
/-! DEFINITION. The machine's step: one transition of the frame controller (40_fetch_execute.md R85). -/

namespace Sys2Proof.Machine

def step : State → Host.Outcome State Fault Refusal := controllerStep

/-- `s` with the host's table word stored where `step` fetches its next instruction, so that the very next step runs it (log 14). -/
def State.withFetchWord (s : State) (nbits w : Nat) : State := s.placeBytes (tableBytes nbits w)

end Sys2Proof.Machine
end

