-- ==== Sys2Proof/Safety.lean ====
section
/-! DEFINITION. The terms claims are stated in: what stays the same, the invariant of the machine, a frame as one function (R86), and a
draw as a picture of the state before it (44_display.md R175 to R179). -/

namespace Sys2Proof.Machine

/-! ## Frames: what an instruction leaves unchanged -/

/-- Every byte of memory reads as before. -/
def SameMemory (s t : State) : Prop := ∀ a, Memory.read t.mem a = Memory.read s.mem a

/-- Every cell of the display is as before. -/
def SameDisplay (s t : State) : Prop := ∀ cx cy, Display.cell t.disp cx cy = Display.cell s.disp cx cy

/-- Only general registers differ. -/
def OnlyRegsChange (s t : State) : Prop := t = { s with v := t.v } ∧ SameMemory s t ∧ SameDisplay s t

/-- Only PC differs. -/
def OnlyPcChanges (s t : State) : Prop := t = { s with pc := t.pc } ∧ SameMemory s t ∧ SameDisplay s t

/-- Only I differs. -/
def OnlyIndexChanges (s t : State) : Prop := t = { s with i := t.i } ∧ SameMemory s t ∧ SameDisplay s t

/-- Only PC, SP and the call stack differ. -/
def OnlyPcAndStackChange (s t : State) : Prop :=
  t = { s with pc := t.pc, sp := t.sp, stack := t.stack } ∧ SameMemory s t ∧ SameDisplay s t

/-- Only memory differs. -/
def OnlyMemoryChanges (s t : State) : Prop := t = { s with mem := t.mem } ∧ SameDisplay s t

/-- Only the display differs. -/
def OnlyDisplayChanges (s t : State) : Prop := t = { s with disp := t.disp } ∧ SameMemory s t

/-- Only the display and general registers differ. -/
def OnlyDisplayAndRegsChange (s t : State) : Prop := t = { s with disp := t.disp, v := t.v } ∧ SameMemory s t

/-- The state a fault leaves (R211): the cause, the address of the instruction, PC put back, nothing else. -/
def FaultState (s : State) (cause : FaultCause) (a : Word) (t : State) : Prop :=
  t = { s with faultCause := cause, faultPc := a, pc := a } ∧ SameMemory s t ∧ SameDisplay s t

/-! ## A step slot -/

/-- A step slot in which an instruction runs (R85, R92). -/
def State.InSlot (s : State) : Prop := s.phase = .exec ∧ s.cyc ≠ 0 ∧ s.faultCause = .noFault

/-- `(MEM[PC] << 8) | MEM[PC + 1]` (R87, R88). -/
def State.wordAtPc (s : State) : Word :=
  BitVec.ofNat 16 ((Memory.read s.mem s.pc.toNat).toNat * 256 + (Memory.read s.mem (s.pc.toNat + 1)).toNat)

/-- A step slot that fetches the instruction `i`. -/
def State.Fetches (s : State) (i : Instr) : Prop :=
  s.InSlot ∧ s.pc.toNat + 1 ≤ 0xFFF ∧ decodeWord s.wordAtPc = some i

/-- The host takes the block back to a running state in this step (R212, R248): reset, or a load that fits. -/
def State.Recovers (s : State) : Prop :=
  s.phase = .idle ∧
    ((∃ rest, s.port.commands = .reset :: rest) ∨
     ∃ bytes rest, s.port.commands = .load bytes :: rest ∧ bytes.length ≤ 3584)

/-- The general registers an instruction may write: the table of 10_state.md R22. -/
def mayWrite : Instr → RegIx → Bool
  | .ldImm x _, r | .addImm x _, r | .ldReg x _, r | .orReg x _, r | .andReg x _, r | .xorReg x _, r
  | .rnd x _, r | .ldVxDt x, r | .ldVxK x, r => r == x
  | .addReg x _, r | .subReg x _, r | .subnReg x _, r | .shrReg x _, r | .shlReg x _, r => r == x || r == 15
  | .drw _ _ _, r => r == 15
  | .loadRegs x, r => decide (r ≤ x)
  | _, _ => false

/-! ## The invariant of the machine -/

/-- The fault that is recorded is one its cause explains (R210). -/
def State.FaultExplained (s : State) : Prop :=
  match s.faultCause with
  | .noFault => s.faultPc = 0
  | .fetchOob => s.faultPc.toNat + 1 > 0xFFF
  | .memOob => True
  | .stackOverflow => s.sp = 15
  | .stackUnderflow => s.sp = 0

/-- What every step keeps. -/
structure State.Inv (s : State) : Prop where
  /-- Memory is in its canonical form, the model's choice (log 11); the addresses it lists exist (R45). -/
  memory : Memory.wf s.mem = true
  /-- CYC lies in 0..CYCLES_PER_FRAME (R33), the parameter being the model's field of log 8. -/
  cycBounded : s.cyc ≤ s.port.cyclesPerFrame
  /-- CYC is 0 outside EXEC (R85). -/
  cycSpent : s.phase ≠ .exec → s.cyc = 0
  /-- Between frames no key is latched (R225). -/
  keyCleared : s.phase = .idle → s.key = none
  /-- A recorded fault is explained (R210), and none recorded leaves FAULT_PC at its reset value (R32). -/
  explained : s.FaultExplained
  /-- After a fault PC stays at the faulting instruction (R211, R212). -/
  halted : s.faultCause ≠ .noFault → s.pc = s.faultPc
  /-- Slot 0 of the call stack is never written by a call (R26). -/
  slotZero : s.stack[0] = 0
  /-- OUT_SOUND is the sound predicate of the published ST (R222, R34). -/
  soundPublished : s.outSound = (s.outDiag.st != 0)
  /-- In IDLE the published display is the display (R34). -/
  displayPublished : s.phase = .idle → s.outDisp = s.disp
  /-- In IDLE the published tuple is the current one but for the cleared key (R34, R228). -/
  diagPublished : s.phase = .idle → { s.outDiag with key := s.key } = s.diag

/-! ## A frame as one function of the state (R86) -/

/-- `repeat n times: if FAULT_CAUSE = NONE: Step()` (R86). -/
def runSlots : Nat → State → Host.Outcome State Fault Refusal
  | 0, s => .next s
  | n + 1, s =>
    match if s.faultCause = .noFault then instrStep s else .next s with
    | .next t => runSlots n t
    | .fault r => .fault r
    | .refused r => .refused r

/-- The end of a frame (R86): both timers count down, the outputs are published, the key is cleared. -/
def closeFrame (s : State) : State :=
  let dt := if s.dt > 0 then s.dt - 1 else s.dt
  let st := if s.st > 0 then s.st - 1 else s.st
  { s with dt := dt, st := st, outDisp := s.disp, outSound := decide (st > 0), key := none,
           outDiag := ⟨s.pc, s.i, s.sp, dt, st, s.key, s.faultCause, s.faultPc⟩ }

/-- `Frame(key_in)` (R86). -/
def frameFunction (keyIn : Option KeyCode) (s : State) : Host.Outcome State Fault Refusal :=
  onNext closeFrame (runSlots s.port.cyclesPerFrame { s with key := keyIn })

/-! ## A draw as a picture of the state before it (R175 to R179) -/

/-- Bit `k` of sprite row `r`, counted from the left: bit 7 of the byte at I + r is bit 0 here (R170, R175). -/
def spriteBit (s : State) (r k : Nat) : Bool := k < 8 && (Memory.read s.mem (s.i.toNat + r)).getLsbD (7 - k)

/-- The start row: Vy mod 32, or 0 when Vy is the cleared VF (R179). -/
def startRow (s : State) (y : RegIx) : Nat := if y = 15 then 0 else s.v[y].toNat % 32

/-- The rows the draw processes (R175). -/
def rowCount (s : State) (y : RegIx) (n : BitVec 4) : Nat := min n.toNat (32 - startRow s y)

/-- The start column of a row: Vx mod 64, or VF as the rows above have left it (R179). -/
def startColumn (s : State) (x : RegIx) (hit : Bool) : Nat :=
  if x = 15 then (if hit then 1 else 0) else s.v[x].toNat % 64

/-- Does row `r`, drawn from column `c` at display row `cy`, turn a cell off? -/
def rowHits (s : State) (r c cy : Nat) : Bool :=
  (List.range 8).any fun k => c + k < 64 && spriteBit s r k && Display.cell s.disp (c + k) cy

/-- Has one of the first `r` rows collided (R178)? -/
def hitBefore (s : State) (x y : RegIx) : Nat → Bool
  | 0 => false
  | r + 1 => hitBefore s x y r || rowHits s r (startColumn s x (hitBefore s x y r)) (startRow s y + r)

/-- Does the draw toggle cell `(cx, cy)`? -/
def drawToggles (s : State) (x y : RegIx) (n : BitVec 4) (cx cy : Nat) : Bool :=
  startRow s y ≤ cy && cy - startRow s y < rowCount s y n &&
  startColumn s x (hitBefore s x y (cy - startRow s y)) ≤ cx &&
  spriteBit s (cy - startRow s y) (cx - startColumn s x (hitBefore s x y (cy - startRow s y)))

end Sys2Proof.Machine
end

