-- ==== Sys2Proof/Certificates/Slice0/Obligations.lean ====
section
/-! DEFINITION. The statements for the provers. In a statement about `exec`, `s` is the state after the fetch advance: every
instruction rule sees PC = a + 2, where a is the instruction's own address (R89, log 1). Each docstring says which rule of spec/ the statement formalises. -/

open Sys2Proof Sys2Proof.Machine

/-! ## Encoding (30_encoding.md) -/

/-- Words written out from the encodings of R73 decode to the instruction they stand for (a sanity statement). -/
def Obligations.SpecWordsDecode : Prop :=
  decodeWord 0x00E0 = some .cls ∧ decodeWord 0x0AEE = some .ret ∧ decodeWord 0x1ABC = some (.jp 0xABC) ∧
  decodeWord 0x3142 = some (.seImm 1 0x42) ∧ decodeWord 0x5127 = some (.seReg 1 2) ∧
  decodeWord 0x8AB6 = some (.shrReg 10 11) ∧ decodeWord 0xC30F = some (.rnd 3 0x0F) ∧
  decodeWord 0xD125 = some (.drw 1 2 5) ∧ decodeWord 0xE39E = some (.skp 3) ∧ decodeWord 0xF265 = some (.loadRegs 2)

/-- Decoding an encoded instruction gives it back, every operand at every value (R66, R67, R73). -/
def Obligations.DecodeOfEncode : Prop := ∀ i : Instr, decodeWord (encode i) = some i

/-- A decoded instruction re-encodes to its word in every bit the decoder reads; the bits it ignores (R67 to R69) are written as 0, the
model's choice (log 13). -/
def Obligations.EncodeOfDecode : Prop :=
  ∀ (w : Word) (i : Instr), decodeWord w = some i → encode i = w &&& i.usedBits

/-- R73: a word is the instruction of the row that covers it, it matches at most one row, and a word that matches none is unknown. -/
def Obligations.OpcodeMapIsUnambiguous : Prop :=
  (∀ w : Word, ∀ r ∈ opcodeMap, ∀ q ∈ opcodeMap, r.covers w = true → q.covers w = true → r = q) ∧
  (∀ (w : Word) (i : Instr), decodeWord w = some i → i.row ∈ opcodeMap ∧ i.row.covers w = true) ∧
  ∀ w : Word, decodeWord w = none ↔ ∀ r ∈ opcodeMap, r.covers w = false

/-- R74: exactly these words are unknown, class by class. -/
def Obligations.UnknownWordsByClass : Prop :=
  ∀ w : Word, decodeWord w = none ↔
    (w.toNat / 4096 = 0x0 ∧ w.toNat % 256 ∉ [0xE0, 0xEE]) ∨
    (w.toNat / 4096 = 0x8 ∧ w.toNat % 16 ∈ [0x8, 0x9, 0xA, 0xB, 0xC, 0xD, 0xF]) ∨
    (w.toNat / 4096 = 0xE ∧ w.toNat % 256 ∉ [0x9E, 0xA1]) ∨
    (w.toNat / 4096 = 0xF ∧ w.toNat % 256 ∉ [0x07, 0x0A, 0x15, 0x18, 0x1E, 0x29, 0x33, 0x55, 0x65])

/-- R65: two bytes, the one at the lower address in bits 15:8, make the word, and two bytes are consumed. That a word no row covers (R74) is
an error of the decoder by name, while the step runs it as a no-op, is the model's form (log 3). -/
def Obligations.BytesDecodeBigEndian : Prop :=
  ∀ (hi lo : Byte) (rest : List Byte),
    decodeBytes (hi :: lo :: rest) =
      match decodeWord (BitVec.ofNat 16 (hi.toNat * 256 + lo.toNat)) with
      | some i => .ok (i, rest)
      | none => .error (.unknownWord (BitVec.ofNat 16 (hi.toNat * 256 + lo.toNat)))

/-! ## The step and the frame controller (40_fetch_execute.md) -/

/-- R87, R89, R90: a step slot whose word decodes to `i` runs `exec i` after the advance, and one slot of the frame is used. -/
def Obligations.StepRunsDecodedInstruction : Prop :=
  ∀ (s : State) (i : Instr), s.Fetches i →
    step s = onNext (fun t => { t with cyc := t.cyc - 1 }) (exec i { s with pc := s.pc + 2 })

/-- R88: a fetch whose second byte is out of range faults with nothing else changed. -/
def Obligations.FetchOutOfRangeFaults : Prop :=
  ∀ s : State, s.InSlot → s.pc.toNat + 1 > 0xFFF →
    ∃ t, step s = .next { t with cyc := s.cyc - 1 } ∧ FaultState s .fetchOob s.pc t

/-- R91: an unknown word has no effect beyond the fetch advance. -/
def Obligations.UnknownWordOnlyAdvances : Prop :=
  ∀ s : State, s.InSlot → s.pc.toNat + 1 ≤ 0xFFF → decodeWord s.wordAtPc = none →
    step s = .next { s with pc := s.pc + 2, cyc := s.cyc - 1 }

/-- R92 and the EXEC rows of R85: a faulted core lets the slot pass, and a frame with no slot left goes to TICK. -/
def Obligations.SlotsPassOnAFaultedCore : Prop :=
  ∀ s : State, s.phase = .exec →
    (s.cyc ≠ 0 → s.faultCause ≠ .noFault → step s = .next { s with cyc := s.cyc - 1 }) ∧
    (s.cyc = 0 → step s = .next { s with phase := .tick })

/-- R223 and the IDLE row of R85: a frame command latches the key, loads CYC and enters EXEC; with no command IDLE holds the state
(R231). The queue of commands and the reply are the model's own fields (log 4, 5, 6). -/
def Obligations.IdleTakesAFrameOrHolds : Prop :=
  ∀ s : State, s.phase = .idle →
    (∀ k rest, s.port.commands = .frame k :: rest →
      step s = .next { s with key := k, cyc := s.port.cyclesPerFrame, phase := .exec,
                              port := { s.port with commands := rest, reply := none } }) ∧
    (s.port.commands = [] → step s = .next s)

/-- R220, R222, R225 and the TICK row of R85: both timers count down to 0 and no further, the outputs are published after that, then
the key is cleared; nothing else changes. The reply is the model's field for `frame_done` (log 6). -/
def Obligations.TickEndsTheFrame : Prop :=
  ∀ s : State, s.phase = .tick → ∃ t, step s = .next t ∧
    t.dt.toNat = s.dt.toNat - 1 ∧ t.st.toNat = s.st.toNat - 1 ∧
    t.outDisp = s.disp ∧ (t.outSound = true ↔ t.st.toNat > 0) ∧
    t.outDiag = ⟨s.pc, s.i, s.sp, t.dt, t.st, s.key, s.faultCause, s.faultPc⟩ ∧
    t.key = none ∧ t.phase = .idle ∧ t.port = { s.port with reply := some .frameDone } ∧
    t = { s with dt := t.dt, st := t.st, outDisp := t.outDisp, outSound := t.outSound, outDiag := t.outDiag,
                 key := t.key, phase := t.phase, port := t.port }

/-- R86: from IDLE, a frame command runs to the state `Frame(key_in)` gives in CYCLES_PER_FRAME + 3 transitions. The queue the command
stands in and the reply that answers it are the model's own fields (log 4, 6). -/
def Obligations.WholeFrameIsFrameFunction : Prop :=
  ∀ (s : State) (k : Option KeyCode) (rest : List Command), s.phase = .idle → s.cyc = 0 →
    s.port.commands = .frame k :: rest →
    Sys2Proof.core.run (s.port.cyclesPerFrame + 3) s =
      onNext (fun t => { t with port := { t.port with reply := some .frameDone } })
        (frameFunction k { s with port := { s.port with commands := rest, reply := none } })

/-! ## Reset and load (70_reset_and_hazards.md) -/

/-- R240: what a reset command leaves, every piece of state and every byte of memory. Glyphs 1..F of FONT are a parameter (log 9). -/
def Obligations.ResetCommandLeavesResetState : Prop :=
  ∀ (s : State) (rest : List Command), s.phase = .idle → s.port.commands = .reset :: rest →
    ∃ t, step s = .next t ∧ (∀ r : Fin 16, t.v[r] = 0 ∧ t.stack[r] = 0) ∧ t.i = 0 ∧ t.pc = 0x200 ∧ t.sp = 0 ∧
      t.dt = 0 ∧ t.st = 0 ∧ (∀ cx cy, Display.cell t.disp cx cy = false) ∧ t.key = none ∧ t.faultCause = .noFault ∧ t.faultPc = 0 ∧
      t.phase = .idle ∧ t.cyc = 0 ∧ (∀ cx cy, Display.cell t.outDisp cx cy = false) ∧ t.outSound = false ∧
      t.outDiag = ⟨0x200, 0, 0, 0, 0, none, .noFault, 0⟩ ∧
      (∀ a, a < 80 → some (Memory.read t.mem a) = Config.font[a]?) ∧ (∀ a, 80 ≤ a → Memory.read t.mem a = 0) ∧
      (List.range 5).map (Memory.read t.mem) = [0xF0, 0x90, 0x90, 0x90, 0xF0] ∧
      t.port = { s.port with commands := rest, reply := none }

/-- R243: a program that fits is loaded at 0x200 of the reset memory, and everything else is as after reset. -/
def Obligations.LoadResetsAndCopies : Prop :=
  ∀ (s : State) (bytes : List Byte) (rest : List Command), s.phase = .idle →
    s.port.commands = .load bytes :: rest → bytes.length ≤ 3584 →
    ∃ t, step s = .next t ∧
      (∀ a, Memory.read t.mem a =
        if h : 0x200 ≤ a ∧ a - 0x200 < bytes.length then bytes[a - 0x200] else Memory.read State.reset.mem a) ∧
      t.port = { s.port with commands := rest, reply := some .loadOk } ∧
      t = { State.reset with mem := t.mem, port := t.port }

/-- R244: a program longer than 3584 bytes is refused and changes no state of the machine. -/
def Obligations.LoadTooLargeChangesNothing : Prop :=
  ∀ (s : State) (bytes : List Byte) (rest : List Command), s.phase = .idle →
    s.port.commands = .load bytes :: rest → bytes.length > 3584 →
    step s = .next { s with port := { s.port with commands := rest, reply := some .loadTooLarge } }

/-! ## Control flow (41_control_flow.md) -/

/-- R101: RET. -/
def Obligations.ReturnPopsOrUnderflows : Prop :=
  ∀ s : State,
    (s.sp ≠ 0 → ∃ t, exec .ret s = .next t ∧ t.pc = s.stack[s.sp] ∧ t.sp.val = s.sp.val - 1 ∧ t.stack = s.stack ∧
      OnlyPcAndStackChange s t) ∧
    (s.sp = 0 → ∀ a : Word, s.pc = a + 2 → ∃ t, exec .ret s = .next t ∧ FaultState s .stackUnderflow a t)

/-- R102: JP. -/
def Obligations.JumpGoesToItsAddress : Prop :=
  ∀ (nnn : BitVec 12) (s : State), ∃ t, exec (.jp nnn) s = .next t ∧ t.pc.toNat = nnn.toNat ∧ OnlyPcChanges s t

/-- R103: CALL. -/
def Obligations.CallPushesOrOverflows : Prop :=
  ∀ (nnn : BitVec 12) (s : State),
    (s.sp ≠ 15 → ∃ t, exec (.call nnn) s = .next t ∧ t.sp.val = s.sp.val + 1 ∧ t.pc.toNat = nnn.toNat ∧
      (∀ k : Fin 16, t.stack[k] = if k.val = s.sp.val + 1 then s.pc else s.stack[k]) ∧ OnlyPcAndStackChange s t) ∧
    (s.sp = 15 → ∀ a : Word, s.pc = a + 2 → ∃ t, exec (.call nnn) s = .next t ∧ FaultState s .stackOverflow a t)

/-- R104, R105: SE and SNE with an immediate. -/
def Obligations.SkipOnImmediate : Prop :=
  ∀ (x : RegIx) (kk : Byte) (s : State),
    (∃ t, exec (.seImm x kk) s = .next t ∧
      t.pc.toNat = (s.pc.toNat + if s.v[x].toNat = kk.toNat then 2 else 0) % 2 ^ 16 ∧ OnlyPcChanges s t) ∧
    (∃ t, exec (.sneImm x kk) s = .next t ∧
      t.pc.toNat = (s.pc.toNat + if s.v[x].toNat = kk.toNat then 0 else 2) % 2 ^ 16 ∧ OnlyPcChanges s t)

/-- R106, R107: SE and SNE with a register. -/
def Obligations.SkipOnRegister : Prop :=
  ∀ (x y : RegIx) (s : State),
    (∃ t, exec (.seReg x y) s = .next t ∧
      t.pc.toNat = (s.pc.toNat + if s.v[x].toNat = s.v[y].toNat then 2 else 0) % 2 ^ 16 ∧ OnlyPcChanges s t) ∧
    (∃ t, exec (.sneReg x y) s = .next t ∧
      t.pc.toNat = (s.pc.toNat + if s.v[x].toNat = s.v[y].toNat then 0 else 2) % 2 ^ 16 ∧ OnlyPcChanges s t)

/-- R108: JP V0 is relative to the advanced PC. -/
def Obligations.JumpV0IsRelativeToAdvancedPc : Prop :=
  ∀ (nnn : BitVec 12) (s : State), ∃ t, exec (.jpV0 nnn) s = .next t ∧
    t.pc.toNat = (s.pc.toNat + nnn.toNat + s.v[0].toNat) % 2 ^ 16 ∧ OnlyPcChanges s t

/-- R249: a program that jumps to itself is not stepped past: the whole step only uses a slot. -/
def Obligations.JumpToItselfHangs : Prop :=
  ∀ (s : State) (nnn : BitVec 12), s.Fetches (.jp nnn) → nnn.toNat = s.pc.toNat →
    step s = .next { s with cyc := s.cyc - 1 }

/-- R101 after R103: a return takes back what a call put, wherever the called code starts to return from. -/
def Obligations.ReturnUndoesCall : Prop :=
  ∀ (nnn : BitVec 12) (s t : State) (a : Word), s.sp ≠ 15 → exec (.call nnn) s = .next t →
    ∃ u, exec .ret { t with pc := a } = .next u ∧ u.pc = s.pc ∧ u.sp = s.sp ∧
      u = { s with stack := u.stack } ∧ ∀ k : Fin 16, k.val ≠ s.sp.val + 1 → u.stack[k] = s.stack[k]

/-! ## Register loads and ALU (42_alu.md) -/

/-- R122, R123, R124: LD Vx, kk; ADD Vx, kk, which sets no flag; LD Vx, Vy. -/
def Obligations.MovesAndImmediateAdd : Prop :=
  ∀ (x y : RegIx) (kk : Byte) (s : State),
    (∃ t, exec (.ldImm x kk) s = .next t ∧ t.v[x] = kk ∧ (∀ r : RegIx, r ≠ x → t.v[r] = s.v[r]) ∧
      OnlyRegsChange s t) ∧
    (∃ t, exec (.addImm x kk) s = .next t ∧ t.v[x].toNat = (s.v[x].toNat + kk.toNat) % 256 ∧
      (∀ r : RegIx, r ≠ x → t.v[r] = s.v[r]) ∧ OnlyRegsChange s t) ∧
    (∃ t, exec (.ldReg x y) s = .next t ∧ t.v[x] = s.v[y] ∧ (∀ r : RegIx, r ≠ x → t.v[r] = s.v[r]) ∧
      OnlyRegsChange s t)

/-- R125, R126, R127: the logical operations, bit by bit; VF is not written but as the destination. -/
def Obligations.LogicalOperations : Prop :=
  ∀ (x y : RegIx) (s : State),
    (∃ t, exec (.orReg x y) s = .next t ∧
      (∀ k : Fin 8, t.v[x].getLsbD k = (s.v[x].getLsbD k || s.v[y].getLsbD k)) ∧
      (∀ r : RegIx, r ≠ x → t.v[r] = s.v[r]) ∧ OnlyRegsChange s t) ∧
    (∃ t, exec (.andReg x y) s = .next t ∧
      (∀ k : Fin 8, t.v[x].getLsbD k = (s.v[x].getLsbD k && s.v[y].getLsbD k)) ∧
      (∀ r : RegIx, r ≠ x → t.v[r] = s.v[r]) ∧ OnlyRegsChange s t) ∧
    (∃ t, exec (.xorReg x y) s = .next t ∧
      (∀ k : Fin 8, t.v[x].getLsbD k = (s.v[x].getLsbD k != s.v[y].getLsbD k)) ∧
      (∀ r : RegIx, r ≠ x → t.v[r] = s.v[r]) ∧ OnlyRegsChange s t)

/-- R128 with R120: ADD Vx, Vy; with x = 0xF the sum wins over the flag. -/
def Obligations.AddSetsCarry : Prop :=
  ∀ (x y : RegIx) (s : State), ∃ t, exec (.addReg x y) s = .next t ∧
    t.v[x].toNat = (s.v[x].toNat + s.v[y].toNat) % 256 ∧
    (x ≠ 15 → t.v[15].toNat = if s.v[x].toNat + s.v[y].toNat > 255 then 1 else 0) ∧
    (∀ r : RegIx, r ≠ x → r ≠ 15 → t.v[r] = s.v[r]) ∧ OnlyRegsChange s t

/-- R129, R131 with R120, R121: SUB and SUBN, the flag strict; with x = 0xF the difference wins over the flag. -/
def Obligations.SubtractSetsStrictFlag : Prop :=
  ∀ (x y : RegIx) (s : State),
    (∃ t, exec (.subReg x y) s = .next t ∧
      t.v[x].toNat = (s.v[x].toNat + 256 - s.v[y].toNat) % 256 ∧
      (x ≠ 15 → t.v[15].toNat = if s.v[x].toNat > s.v[y].toNat then 1 else 0) ∧
      (∀ r : RegIx, r ≠ x → r ≠ 15 → t.v[r] = s.v[r]) ∧ OnlyRegsChange s t) ∧
    (∃ t, exec (.subnReg x y) s = .next t ∧
      t.v[x].toNat = (s.v[y].toNat + 256 - s.v[x].toNat) % 256 ∧
      (x ≠ 15 → t.v[15].toNat = if s.v[y].toNat > s.v[x].toNat then 1 else 0) ∧
      (∀ r : RegIx, r ≠ x → r ≠ 15 → t.v[r] = s.v[r]) ∧ OnlyRegsChange s t)

/-- R130, R132 with R120: SHR and SHL, the flag from Vx and the shifted value from Vy. -/
def Obligations.ShiftsTakeFlagFromVxValueFromVy : Prop :=
  ∀ (x y : RegIx) (s : State),
    (∃ t, exec (.shrReg x y) s = .next t ∧ t.v[x].toNat = s.v[y].toNat / 2 ∧
      (x ≠ 15 → t.v[15].toNat = s.v[x].toNat % 2) ∧
      (∀ r : RegIx, r ≠ x → r ≠ 15 → t.v[r] = s.v[r]) ∧ OnlyRegsChange s t) ∧
    (∃ t, exec (.shlReg x y) s = .next t ∧ t.v[x].toNat = s.v[y].toNat * 2 % 256 ∧
      (x ≠ 15 → t.v[15].toNat = s.v[x].toNat / 128) ∧
      (∀ r : RegIx, r ≠ x → r ≠ 15 → t.v[r] = s.v[r]) ∧ OnlyRegsChange s t)

/-- R133: RND masks one fresh draw, whatever it is, and consumes it. The list of supplied draws and the free draws after it are the
model's form of `rand_in` (log 7); the statement holds for every value of both. -/
def Obligations.RandomMasksOneFreshDraw : Prop :=
  ∀ (x : RegIx) (kk : Byte) (s : State), ∃ t, exec (.rnd x kk) s = .next t ∧
    (∀ r rest, s.port.rand = r :: rest → t.v[x] = r &&& kk ∧ t.port.rand = rest) ∧
    (s.port.rand = [] → t.v[x] = Config.randIn s.port.draws &&& kk ∧ t.port.rand = []) ∧
    t.port = { s.port with rand := t.port.rand, draws := s.port.draws + 1 } ∧
    (∀ r : RegIx, r ≠ x → t.v[r] = s.v[r]) ∧ t = { s with v := t.v, port := t.port } ∧
    SameMemory s t ∧ SameDisplay s t

/-! ## Index register and memory (43_index_memory.md) -/

/-- R151, R152, R153: the three writes of I; VF is not written. -/
def Obligations.IndexRegisterWrites : Prop :=
  ∀ (x : RegIx) (nnn : BitVec 12) (s : State),
    (∃ t, exec (.ldI nnn) s = .next t ∧ t.i.toNat = nnn.toNat ∧ OnlyIndexChanges s t) ∧
    (∃ t, exec (.addI x) s = .next t ∧ t.i.toNat = (s.i.toNat + s.v[x].toNat) % 2 ^ 16 ∧ OnlyIndexChanges s t) ∧
    (∃ t, exec (.ldF x) s = .next t ∧ t.i.toNat = 5 * s.v[x].toNat ∧ OnlyIndexChanges s t)

/-- R154: LD B stores the three decimal digits at I, I+1, I+2 and nowhere else, or faults and stores nothing. -/
def Obligations.DecimalDigitsAreStored : Prop :=
  ∀ (x : RegIx) (s : State),
    (s.i.toNat + 2 ≤ 0xFFF → ∃ t, exec (.ldB x) s = .next t ∧
      (Memory.read t.mem s.i.toNat).toNat = s.v[x].toNat / 100 ∧
      (Memory.read t.mem (s.i.toNat + 1)).toNat = s.v[x].toNat / 10 % 10 ∧
      (Memory.read t.mem (s.i.toNat + 2)).toNat = s.v[x].toNat % 10 ∧
      (∀ a, a < s.i.toNat ∨ s.i.toNat + 2 < a → Memory.read t.mem a = Memory.read s.mem a) ∧
      OnlyMemoryChanges s t) ∧
    (s.i.toNat + 2 > 0xFFF → ∀ a : Word, s.pc = a + 2 → ∃ t, exec (.ldB x) s = .next t ∧ FaultState s .memOob a t)

/-- R155: LD [I], Vx stores V0..Vx at I..I+x and nowhere else, or faults and stores nothing. -/
def Obligations.RegistersAreStored : Prop :=
  ∀ (x : RegIx) (s : State),
    (s.i.toNat + x.val ≤ 0xFFF → ∃ t, exec (.storeRegs x) s = .next t ∧
      (∀ r : RegIx, r ≤ x → Memory.read t.mem (s.i.toNat + r.val) = s.v[r]) ∧
      (∀ a, a < s.i.toNat ∨ s.i.toNat + x.val < a → Memory.read t.mem a = Memory.read s.mem a) ∧
      OnlyMemoryChanges s t) ∧
    (s.i.toNat + x.val > 0xFFF → ∀ a : Word, s.pc = a + 2 →
      ∃ t, exec (.storeRegs x) s = .next t ∧ FaultState s .memOob a t)

/-- R156: LD Vx, [I] loads V0..Vx from I..I+x and no other register, or faults and loads nothing. -/
def Obligations.RegistersAreLoaded : Prop :=
  ∀ (x : RegIx) (s : State),
    (s.i.toNat + x.val ≤ 0xFFF → ∃ t, exec (.loadRegs x) s = .next t ∧
      (∀ r : RegIx, t.v[r] = if r ≤ x then Memory.read s.mem (s.i.toNat + r.val) else s.v[r]) ∧
      OnlyRegsChange s t) ∧
    (s.i.toNat + x.val > 0xFFF → ∀ a : Word, s.pc = a + 2 →
      ∃ t, exec (.loadRegs x) s = .next t ∧ FaultState s .memOob a t)

/-- R57, R250: a byte stored by LD [I], Vx is what the very next fetch reads where PC reaches it. -/
def Obligations.StoreIsSeenByNextFetch : Prop :=
  ∀ (x r q : RegIx) (s t : State), exec (.storeRegs x) s = .next t → s.i.toNat + x.val ≤ 0xFFF →
    r.val + 1 = q.val → q ≤ x → s.pc.toNat = s.i.toNat + r.val →
    t.fetchWord = some (BitVec.ofNat 16 (s.v[r].toNat * 256 + s.v[q].toNat))

/-! ## Display (44_display.md) -/

/-- R171: Toggle wraps both coordinates, flips exactly that cell, answers whether it is now OFF, and undoes itself. -/
def Obligations.ToggleFlipsOneCell : Prop :=
  ∀ (d : Display) (px py : Nat),
    (∀ cx cy, cx < 64 → cy < 32 →
      Display.cell (Display.toggle d px py).1 cx cy =
        if cx = px % 64 ∧ cy = py % 32 then !Display.cell d cx cy else Display.cell d cx cy) ∧
    (Display.toggle d px py).2 = !Display.cell (Display.toggle d px py).1 px py ∧
    Display.toggle d (px + 64) py = Display.toggle d px py ∧ Display.toggle d px (py + 32) = Display.toggle d px py ∧
    (Display.toggle (Display.toggle d px py).1 px py).1 = d

/-- R174 with R172: CLS sets every cell to 0 and changes nothing else. -/
def Obligations.ClearScreen : Prop :=
  ∀ s : State, ∃ t, exec .cls s = .next t ∧ (∀ cx cy, cx < 64 → cy < 32 → Display.cell t.disp cx cy = false) ∧ OnlyDisplayChanges s t

/-- R175, R177, R178: a draw is the XOR of the display with the clipped sprite, every cell of the display said, for every x, y and n, VF as
a coordinate included (R179); VF is the collision flag, and nothing but the display and VF changes. -/
def Obligations.DrawXorsClippedSprite : Prop :=
  ∀ (x y : RegIx) (n : BitVec 4) (s : State),
    rowCount s y n = 0 ∨ s.i.toNat + rowCount s y n - 1 ≤ 0xFFF →
    ∃ t, exec (.drw x y n) s = .next t ∧
      (∀ cx cy, cx < 64 → cy < 32 →
        Display.cell t.disp cx cy = (Display.cell s.disp cx cy != drawToggles s x y n cx cy)) ∧
      t.v[15] = (if hitBefore s x y (rowCount s y n) then 1 else 0) ∧
      (∀ r : RegIx, r ≠ 15 → t.v[r] = s.v[r]) ∧ OnlyDisplayAndRegsChange s t

/-- R178: after a draw VF is 1 exactly when a cell that was on before it was toggled by it, for every x, y and n. -/
def Obligations.CollisionFlagOfADraw : Prop :=
  ∀ (x y : RegIx) (n : BitVec 4) (s t : State),
    rowCount s y n = 0 ∨ s.i.toNat + rowCount s y n - 1 ≤ 0xFFF → exec (.drw x y n) s = .next t →
    ((t.v[15] = 1 ∧ ∃ cx cy, cx < 64 ∧ cy < 32 ∧ Display.cell s.disp cx cy = true ∧ Display.cell t.disp cx cy = false) ∨
     (t.v[15] = 0 ∧ ∀ cx cy, cx < 64 → cy < 32 → Display.cell s.disp cx cy = true → Display.cell t.disp cx cy = true))

/-- R176: a draw with a processed row above 0xFFF faults with no effect, and rows clipped at the bottom are not checked. -/
def Obligations.DrawOutOfRangeFaults : Prop :=
  ∀ (x y : RegIx) (n : BitVec 4) (s : State) (a : Word), s.pc = a + 2 →
    rowCount s y n ≠ 0 → s.i.toNat + rowCount s y n - 1 > 0xFFF →
    ∃ t, exec (.drw x y n) s = .next t ∧ FaultState s .memOob a t

/-- The second draw of R180's example, for every sprite and place: drawing again at the same place restores the display, with VF = 1
exactly when the first draw turned a cell on. -/
def Obligations.DrawingTwiceRestores : Prop :=
  ∀ (x y : RegIx) (n : BitVec 4) (s t u : State), x ≠ 15 → y ≠ 15 →
    rowCount s y n = 0 ∨ s.i.toNat + rowCount s y n - 1 ≤ 0xFFF →
    exec (.drw x y n) s = .next t → exec (.drw x y n) t = .next u →
    u.disp = s.disp ∧
    (u.v[15] = 1 ↔ ∃ cx cy, cx < 64 ∧ cy < 32 ∧ Display.cell s.disp cx cy = false ∧ Display.cell t.disp cx cy = true)

/-! ## Keys and timers (45_input_timers.md) -/

/-- R190, R191: SKP and SKNP, exact complements; the latch is not cleared. -/
def Obligations.SkipOnKey : Prop :=
  ∀ (x : RegIx) (s : State),
    (∃ t, exec (.skp x) s = .next t ∧ OnlyPcChanges s t ∧
      ((∃ k, s.key = some k ∧ k.toNat = s.v[x].toNat) → t.pc.toNat = (s.pc.toNat + 2) % 2 ^ 16) ∧
      ((¬ ∃ k, s.key = some k ∧ k.toNat = s.v[x].toNat) → t.pc = s.pc)) ∧
    (∃ t, exec (.sknp x) s = .next t ∧ OnlyPcChanges s t ∧
      ((∃ k, s.key = some k ∧ k.toNat = s.v[x].toNat) → t.pc = s.pc) ∧
      ((¬ ∃ k, s.key = some k ∧ k.toNat = s.v[x].toNat) → t.pc.toNat = (s.pc.toNat + 2) % 2 ^ 16))

/-- R193: with a key latched Vx receives its code; with none, only PC goes back to the instruction. The latch is not cleared. -/
def Obligations.KeyWaitTakesKeyOrRewinds : Prop :=
  ∀ (x : RegIx) (s : State),
    (∀ k, s.key = some k → ∃ t, exec (.ldVxK x) s = .next t ∧ t.v[x].toNat = k.toNat ∧
      (∀ r : RegIx, r ≠ x → t.v[r] = s.v[r]) ∧ OnlyRegsChange s t) ∧
    (s.key = none → ∃ t, exec (.ldVxK x) s = .next t ∧ t.pc = s.pc - 2 ∧ OnlyPcChanges s t)

/-- R193 over a whole step: a key wait with no key leaves PC and everything else as it was, and only uses a slot (R93). -/
def Obligations.KeyWaitStepLeavesPc : Prop :=
  ∀ (x : RegIx) (s : State), s.Fetches (.ldVxK x) → s.key = none → step s = .next { s with cyc := s.cyc - 1 }

/-- R192, R194, R195: the timer moves. -/
def Obligations.TimerMoves : Prop :=
  ∀ (x : RegIx) (s : State),
    (∃ t, exec (.ldVxDt x) s = .next t ∧ t.v[x] = s.dt ∧ (∀ r : RegIx, r ≠ x → t.v[r] = s.v[r]) ∧
      OnlyRegsChange s t) ∧
    (∃ t, exec (.ldDtVx x) s = .next t ∧ t = { s with dt := s.v[x] } ∧ SameMemory s t ∧ SameDisplay s t) ∧
    (∃ t, exec (.ldStVx x) s = .next t ∧ t = { s with st := s.v[x] } ∧ SameMemory s t ∧ SameDisplay s t)

/-! ## Whole-machine rules -/

/-- Every step keeps the invariant of the machine, from every state that meets it. Its memory clause, the canonical form of the list of
bytes, is the model's choice (log 11), as is where CYCLES_PER_FRAME is held (log 8). -/
def Obligations.EveryStepKeepsInvariant : Prop := ∀ s t : State, s.Inv → step s = .next t → t.Inv

/-- The state after reset meets the invariant. Its memory clause, the canonical form of the list of bytes, is the model's choice (log 11),
as is where CYCLES_PER_FRAME is held (log 8). -/
def Obligations.ResetMeetsInvariant : Prop := State.reset.Inv

/-- Every step of every state answers a next state: a fault of the spec is state, never a stop (R211, R212, log 2). -/
def Obligations.EveryStepAnswersNext : Prop := ∀ s : State, ∃ t, step s = .next t

/-- R211, R213: an instruction that records a fault makes no other change; what causes it may record. -/
def Obligations.FaultsArePrecise : Prop :=
  ∀ (i : Instr) (s t : State) (a : Word), s.pc = a + 2 → s.faultCause = .noFault → exec i s = .next t →
    t.faultCause ≠ .noFault →
    FaultState s t.faultCause a t ∧
    ((t.faultCause = .stackUnderflow ∧ i = .ret ∧ s.sp = 0) ∨
     (t.faultCause = .stackOverflow ∧ (∃ nnn, i = .call nnn) ∧ s.sp = 15) ∨
     (t.faultCause = .memOob ∧
       ((∃ x y n, i = .drw x y n) ∨ (∃ x, i = .ldB x) ∨ (∃ x, i = .storeRegs x) ∨ ∃ x, i = .loadRegs x)))

/-- R212: once a fault is recorded no instruction runs, and nothing but reset or a load that fits clears it. -/
def Obligations.FaultIsSticky : Prop :=
  ∀ s t : State, s.faultCause ≠ .noFault → step s = .next t →
    (s.Recovers ∧ t.faultCause = .noFault ∧ t.faultPc = 0) ∨
    (t.faultCause = s.faultCause ∧ t.faultPc = s.faultPc ∧ t.pc = s.pc ∧ t.i = s.i ∧ t.sp = s.sp ∧ t.v = s.v ∧
      t.stack = s.stack ∧ SameMemory s t ∧ SameDisplay s t)

/-- R95: PC after a step that does not fault. -/
def Obligations.PcAfterAStep : Prop :=
  ∀ s t : State, s.InSlot → step s = .next t → t.faultCause = .noFault →
    t.pc = s.pc + 2 ∨ t.pc = s.pc + 4 ∨
    (t.pc = s.pc ∧ s.key = none ∧ ∃ x, s.Fetches (.ldVxK x)) ∨
    (∃ nnn, t.pc.toNat = nnn.toNat ∧ (s.Fetches (.jp nnn) ∨ s.Fetches (.call nnn))) ∨
    (t.pc = s.stack[s.sp] ∧ s.Fetches .ret) ∨
    (∃ nnn, t.pc.toNat = (s.pc.toNat + 2 + nnn.toNat + s.v[0].toNat) % 2 ^ 16 ∧ s.Fetches (.jpV0 nnn))

/-- R22: a general register changes only under an instruction whose row of the table writes it. -/
def Obligations.RegistersChangeOnlyAsTabled : Prop :=
  ∀ (i : Instr) (s t : State) (r : RegIx), exec i s = .next t → t.v[r] ≠ s.v[r] → mayWrite i r = true

/-- R173: the display changes only by CLS and DRW, and by reset and load. -/
def Obligations.DisplayChangesOnlyByItsUnit : Prop :=
  ∀ s t : State, step s = .next t → ¬ SameDisplay s t →
    s.Fetches .cls ∨ (∃ x y n, s.Fetches (.drw x y n)) ∨ s.Recovers

/-- R23 and R47: I changes only by Annn, Fx1E and Fx29, and memory only by Fx33 and Fx55. -/
def Obligations.IndexAndMemoryWriters : Prop :=
  ∀ (i : Instr) (s t : State), exec i s = .next t →
    (t.i ≠ s.i → (∃ nnn, i = .ldI nnn) ∨ (∃ x, i = .addI x) ∨ ∃ x, i = .ldF x) ∧
    (¬ SameMemory s t → (∃ x, i = .ldB x) ∨ ∃ x, i = .storeRegs x)

/-- R251, R252: while a frame executes the key is constant, and a timer changes only by its own instruction. -/
def Obligations.KeyAndTimersWithinAFrame : Prop :=
  ∀ s t : State, s.phase = .exec → step s = .next t →
    t.key = s.key ∧ (t.dt ≠ s.dt → ∃ x, s.Fetches (.ldDtVx x)) ∧ (t.st ≠ s.st → ∃ x, s.Fetches (.ldStVx x))

/-- R94, R8: in EXEC every step uses exactly one slot whatever it runs, and CYCLES_PER_FRAME is fixed for a run. -/
def Obligations.OneSlotAStep : Prop :=
  ∀ s t : State, step s = .next t →
    (s.phase = .exec → s.cyc ≠ 0 → t.phase = .exec ∧ t.cyc + 1 = s.cyc) ∧
    t.port.cyclesPerFrame = s.port.cyclesPerFrame

/-- R253: the published outputs change only at the end of a frame, and by reset and load. -/
def Obligations.OutputsChangeOnlyAtFrameEnd : Prop :=
  ∀ s t : State, step s = .next t →
    t.outDisp ≠ s.outDisp ∨ t.outSound ≠ s.outSound ∨ t.outDiag ≠ s.outDiag → s.phase = .tick ∨ s.Recovers

/-- R33: no instruction reads PHASE, CYC, the published outputs or the host's commands and reply, nor writes them. -/
def Obligations.HiddenStateIsNotRead : Prop :=
  ∀ (i : Instr) (s : State) (p : Phase) (n : Nat) (d : Display) (b : Bool) (g : Diag) (cs : List Command) (r : Option Reply),
    exec i { s with phase := p, cyc := n, outDisp := d, outSound := b, outDiag := g,
                    port := { s.port with commands := cs, reply := r } } =
      onNext (fun t => { t with phase := p, cyc := n, outDisp := d, outSound := b, outDiag := g,
                                port := { t.port with commands := cs, reply := r } }) (exec i s)

/-- R229: nothing but Cxkk consumes a draw. -/
def Obligations.OnlyRndDraws : Prop :=
  ∀ s t : State, step s = .next t → t.port.rand ≠ s.port.rand ∨ t.port.draws ≠ s.port.draws →
    ∃ x kk, s.Fetches (.rnd x kk)
end

