-- ==== Sys2Proof/Laws/Decode.lean ====
section
/-! SUPPORT. The fields of a word and the words of the encoder as numbers (30_encoding.md R66, R67). -/

namespace Sys2Proof

theorem fieldC_toNat (w : Word) : (fieldC w).toNat = w.toNat / 4096 := by
  have := w.isLt
  simp only [fieldC, BitVec.extractLsb'_toNat, Nat.shiftRight_eq_div_pow]
  omega

theorem fieldX_val (w : Word) : (fieldX w).val = w.toNat / 256 % 16 := by
  simp only [fieldX, BitVec.val_toFin, BitVec.extractLsb'_toNat, Nat.shiftRight_eq_div_pow]

theorem fieldY_val (w : Word) : (fieldY w).val = w.toNat / 16 % 16 := by
  simp only [fieldY, BitVec.val_toFin, BitVec.extractLsb'_toNat, Nat.shiftRight_eq_div_pow]

theorem fieldN_toNat (w : Word) : (fieldN w).toNat = w.toNat % 16 := by
  simp [fieldN]

theorem fieldKk_toNat (w : Word) : (fieldKk w).toNat = w.toNat % 256 := by
  simp [fieldKk]

theorem fieldNnn_toNat (w : Word) : (fieldNnn w).toNat = w.toNat % 4096 := by
  simp [fieldNnn]

/-- Concatenation puts the left operand above the right one (R12). -/
theorem append_toNat {m n : Nat} (a : BitVec m) (b : BitVec n) : (a ++ b).toNat = a.toNat * 2 ^ n + b.toNat := by
  rw [BitVec.toNat_append, Nat.shiftLeft_eq, Nat.mul_comm, ← Nat.two_pow_add_eq_or_of_lt b.isLt]

theorem wordA_toNat (c : BitVec 4) (nnn : BitVec 12) : (wordA c nnn).toNat = c.toNat * 4096 + nnn.toNat :=
  append_toNat c nnn

theorem wordXK_toNat (c : BitVec 4) (x : RegIx) (kk : Byte) :
    (wordXK c x kk).toNat = c.toNat * 4096 + (x.val * 256 + kk.toNat) := by
  have h : (wordXK c x kk).toNat = c.toNat * 2 ^ 12 + (regBits x ++ kk).toNat := append_toNat c (regBits x ++ kk)
  rw [h, append_toNat]
  rfl

theorem wordXYN_toNat (c : BitVec 4) (x y : RegIx) (n : BitVec 4) :
    (wordXYN c x y n).toNat = c.toNat * 4096 + (x.val * 256 + (y.val * 16 + n.toNat)) := by
  have h : (wordXYN c x y n).toNat = c.toNat * 2 ^ 12 + (regBits x ++ (regBits y ++ n)).toNat :=
    append_toNat c (regBits x ++ (regBits y ++ n))
  rw [h, append_toNat, append_toNat]
  rfl

/-- The fields of a word of format A. -/
theorem fields_wordA (c : BitVec 4) (nnn : BitVec 12) :
    fieldC (wordA c nnn) = c ∧ fieldNnn (wordA c nnn) = nnn := by
  have h := wordA_toNat c nnn
  have := nnn.isLt
  constructor <;> apply BitVec.eq_of_toNat_eq
  · rw [fieldC_toNat, h]; omega
  · rw [fieldNnn_toNat, h]; omega

/-- The fields of a word of format XK or X. -/
theorem fields_wordXK (c : BitVec 4) (x : RegIx) (kk : Byte) :
    fieldC (wordXK c x kk) = c ∧ fieldX (wordXK c x kk) = x ∧ fieldKk (wordXK c x kk) = kk := by
  have h := wordXK_toNat c x kk
  have h1 := x.isLt
  have h2 := kk.isLt
  refine ⟨?_, ?_, ?_⟩
  · apply BitVec.eq_of_toNat_eq; rw [fieldC_toNat, h]; omega
  · apply Fin.ext; rw [fieldX_val, h]; omega
  · apply BitVec.eq_of_toNat_eq; rw [fieldKk_toNat, h]; omega

/-- The fields of a word of format XY or XYN. -/
theorem fields_wordXYN (c : BitVec 4) (x y : RegIx) (n : BitVec 4) :
    fieldC (wordXYN c x y n) = c ∧ fieldX (wordXYN c x y n) = x ∧ fieldY (wordXYN c x y n) = y ∧
      fieldN (wordXYN c x y n) = n := by
  have h := wordXYN_toNat c x y n
  have h1 := x.isLt
  have h2 := y.isLt
  have h3 := n.isLt
  refine ⟨?_, ?_, ?_, ?_⟩
  · apply BitVec.eq_of_toNat_eq; rw [fieldC_toNat, h]; omega
  · apply Fin.ext; rw [fieldX_val, h]; omega
  · apply Fin.ext; rw [fieldY_val, h]; omega
  · apply BitVec.eq_of_toNat_eq; rw [fieldN_toNat, h]; omega

/-! ## A mask keeps or clears whole fields -/

theorem nibble_and_F (c : BitVec 4) : c &&& 0xF = c := by revert c; decide

theorem and_zero_bits {n : Nat} (b : BitVec n) : b &&& 0 = 0 := BitVec.and_zero

theorem byte_and_FF (b : Byte) : b &&& 0xFF = b := by revert b; decide

theorem wordA_and (c c' : BitVec 4) (n n' : BitVec 12) :
    wordA c n &&& wordA c' n' = wordA (c &&& c') (n &&& n') := BitVec.and_append

/-- The mask of the rows selected by the class alone (R68). -/
theorem wordA_mask_class (c : BitVec 4) (nnn : BitVec 12) : wordA c nnn &&& 0xF000 = wordA c 0 := by
  have h := wordA_and c 0xF nnn 0
  rwa [show wordA 0xF 0 = 0xF000 from rfl, nibble_and_F, and_zero_bits] at h

theorem wordXK_mask_class (c : BitVec 4) (x : RegIx) (kk : Byte) : wordXK c x kk &&& 0xF000 = wordA c 0 :=
  wordA_mask_class c (regBits x ++ kk)

theorem wordXYN_mask_class (c : BitVec 4) (x y : RegIx) (n : BitVec 4) : wordXYN c x y n &&& 0xF000 = wordA c 0 :=
  wordA_mask_class c (regBits x ++ (regBits y ++ n))

/-- The mask of the rows selected by the low byte (R69, R71, R72). -/
theorem wordXK_mask_byte (c : BitVec 4) (x : RegIx) (kk : Byte) : wordXK c x kk &&& 0xF0FF = wordXK c 0 kk := by
  have h := wordA_and c 0xF (regBits x ++ kk) ((0 : BitVec 4) ++ (0xFF : BitVec 8))
  have h2 : (regBits x ++ kk) &&& ((0 : BitVec 4) ++ (0xFF : BitVec 8)) = regBits 0 ++ kk := by
    rw [BitVec.and_append, byte_and_FF, and_zero_bits]; rfl
  rwa [show wordA 0xF ((0 : BitVec 4) ++ (0xFF : BitVec 8)) = 0xF0FF from rfl, nibble_and_F, h2] at h

/-- The mask of the rows selected by the low nibble (R70). -/
theorem wordXYN_mask_nibble (c : BitVec 4) (x y : RegIx) (n : BitVec 4) :
    wordXYN c x y n &&& 0xF00F = wordXYN c 0 0 n := by
  have h := wordA_and c 0xF (regBits x ++ (regBits y ++ n)) ((0 : BitVec 4) ++ ((0 : BitVec 4) ++ (0xF : BitVec 4)))
  have h2 : (regBits x ++ (regBits y ++ n)) &&& ((0 : BitVec 4) ++ ((0 : BitVec 4) ++ (0xF : BitVec 4))) =
      regBits 0 ++ (regBits 0 ++ n) := by
    rw [BitVec.and_append, BitVec.and_append, nibble_and_F, and_zero_bits, and_zero_bits]; rfl
  rwa [show wordA 0xF ((0 : BitVec 4) ++ ((0 : BitVec 4) ++ (0xF : BitVec 4))) = 0xF00F from rfl, nibble_and_F, h2] at h

end Sys2Proof
end

