-- ==== Sys2Proof/Laws/Memory.lean ====
section
/-! SUPPORT. The laws of memory: a read after a write, and the canonical form every operation keeps. -/

namespace Sys2Proof.Machine

/-! ## Reading -/

@[simp] theorem read_nil (a : Nat) : Memory.read [] a = Memory.resetByte a := rfl

theorem read_erase_same (m : Memory) (a : Nat) : Memory.read (Memory.erase m a) a = Memory.resetByte a := by
  induction m with
  | nil => rfl
  | cons c m ih =>
    obtain ⟨k, b⟩ := c
    by_cases h : k = a
    · simpa [Memory.erase, List.filter_cons, h] using ih
    · simp only [Memory.erase] at ih
      simp [Memory.erase, h, Memory.read, ih]

theorem read_erase_other (m : Memory) {a k : Nat} (h : k ≠ a) :
    Memory.read (Memory.erase m a) k = Memory.read m k := by
  induction m with
  | nil => rfl
  | cons c m ih =>
    obtain ⟨j, b⟩ := c
    simp only [Memory.erase] at ih
    by_cases hj : j = a
    · subst hj
      simp [Memory.erase, Memory.read, ih, Ne.symm h]
    · simp [Memory.erase, Memory.read, ih, hj]

theorem read_insertCell_other (m : Memory) (c : Host.Cell) {k : Nat} (h : k ≠ c.1) :
    Memory.read (Memory.insertCell c m) k = Memory.read m k := by
  obtain ⟨a, b⟩ := c
  have h' : ¬ a = k := fun e => h e.symm
  induction m with
  | nil => simp [Memory.insertCell, Memory.read, h']
  | cons d m ih =>
    obtain ⟨j, e⟩ := d
    simp only [Memory.insertCell]
    split
    · simp [Memory.read, h']
    · simp [Memory.read, ih]

/-- The cell just put in is the first of its address, when the address was not listed. -/
theorem read_insertCell_same (m : Memory) (a : Nat) (b : Byte) (h : ∀ c ∈ m, c.1 ≠ a) :
    Memory.read (Memory.insertCell (a, b) m) a = b := by
  induction m with
  | nil => simp [Memory.insertCell, Memory.read]
  | cons d m ih =>
    obtain ⟨j, e⟩ := d
    have hj : j ≠ a := h (j, e) (by simp)
    simp only [Memory.insertCell]
    split
    · simp [Memory.read]
    · simpa [Memory.read, hj] using ih fun c hc => h c (by simp [hc])

theorem erase_not_listed (m : Memory) (a : Nat) : ∀ c ∈ Memory.erase m a, c.1 ≠ a := by
  intro c hc
  simpa using (List.mem_filter.mp hc).2

@[simp] theorem read_write_same (m : Memory) (a : Nat) (b : Byte) : Memory.read (Memory.write m a b) a = b := by
  unfold Memory.write
  split
  · simp_all [read_erase_same]
  · exact read_insertCell_same _ a b (erase_not_listed m a)

theorem read_write_other (m : Memory) {a k : Nat} (b : Byte) (h : k ≠ a) :
    Memory.read (Memory.write m a b) k = Memory.read m k := by
  unfold Memory.write
  split
  · exact read_erase_other m h
  · rw [read_insertCell_other _ (a, b) h, read_erase_other m h]

/-- A store of consecutive bytes changes exactly the bytes it stores to. -/
theorem read_writeBytes (bs : List Byte) (m : Memory) (a k : Nat) :
    Memory.read (Memory.writeBytes m a bs) k =
      if h : a ≤ k ∧ k - a < bs.length then bs[k - a] else Memory.read m k := by
  induction bs generalizing m a with
  | nil => simp [Memory.writeBytes]
  | cons b bs ih =>
    rw [Memory.writeBytes, ih]
    by_cases hk : k = a
    · subst hk
      simp
    · by_cases hin : a + 1 ≤ k ∧ k - (a + 1) < bs.length
      · have h2 : a ≤ k ∧ k - a < (b :: bs).length := by simp; omega
        have e : k - a = (k - (a + 1)) + 1 := by omega
        simp only [hin, h2, and_self, dite_true]
        simp [e]
      · have h2 : ¬ (a ≤ k ∧ k - a < (b :: bs).length) := by simp; omega
        simp only [hin, h2, dite_false]
        exact read_write_other m b hk

/-! ## The canonical form -/

theorem risesFrom_mono {lo lo' : Nat} (h : lo' ≤ lo) {m : Memory} (hm : Memory.risesFrom lo m = true) :
    Memory.risesFrom lo' m = true := by
  cases m with
  | nil => rfl
  | cons c m =>
    simp only [Memory.risesFrom, Bool.and_eq_true, decide_eq_true_eq] at hm ⊢
    exact ⟨by omega, hm.2⟩

theorem risesFrom_erase {m : Memory} (a : Nat) {lo : Nat} (hm : Memory.risesFrom lo m = true) :
    Memory.risesFrom lo (Memory.erase m a) = true := by
  induction m generalizing lo with
  | nil => rfl
  | cons c m ih =>
    obtain ⟨k, b⟩ := c
    simp only [Memory.risesFrom, Bool.and_eq_true, decide_eq_true_eq] at hm
    have hr := ih hm.2
    simp only [Memory.erase, List.filter_cons] at hr ⊢
    by_cases h : k = a
    · simpa [h] using risesFrom_mono (by omega) (h ▸ hr)
    · simpa [h, Memory.risesFrom, hm.1] using hr

theorem risesFrom_insertCell {m : Memory} (a : Nat) (b : Byte) (ha : ∀ c ∈ m, c.1 ≠ a) {lo : Nat} (hlo : lo ≤ a)
    (hm : Memory.risesFrom lo m = true) : Memory.risesFrom lo (Memory.insertCell (a, b) m) = true := by
  induction m generalizing lo with
  | nil => simp [Memory.insertCell, Memory.risesFrom, hlo]
  | cons d m ih =>
    obtain ⟨k, e⟩ := d
    have hk : k ≠ a := ha (k, e) (by simp)
    simp only [Memory.risesFrom, Bool.and_eq_true, decide_eq_true_eq] at hm
    simp only [Memory.insertCell]
    split
    · rename_i hlt
      simp only [Memory.risesFrom, Bool.and_eq_true, decide_eq_true_eq]
      exact ⟨hlo, hlt, hm.2⟩
    · rename_i hge
      simp only [Memory.risesFrom, Bool.and_eq_true, decide_eq_true_eq]
      exact ⟨hm.1, ih (fun c hc => ha c (by simp [hc])) (by simp at hge; omega) hm.2⟩

theorem mem_insertCell {m : Memory} {c d : Host.Cell} (h : d ∈ Memory.insertCell c m) : d = c ∨ d ∈ m := by
  induction m with
  | nil => simpa [Memory.insertCell] using h
  | cons e m ih =>
    simp only [Memory.insertCell] at h
    split at h
    · simpa using h
    · rcases List.mem_cons.mp h with h | h
      · exact .inr (by simp [h])
      · exact (ih h).imp id fun h => by simp [h]

theorem wf_nil : Memory.wf [] = true := rfl

theorem wf_write {m : Memory} (hm : Memory.wf m = true) {a : Nat} (ha : a < Config.memSize) (b : Byte) :
    Memory.wf (Memory.write m a b) = true := by
  simp only [Memory.wf, Bool.and_eq_true, List.all_eq_true] at hm ⊢
  have herase : ∀ c ∈ Memory.erase m a, c ∈ m := fun c hc => (List.mem_filter.mp hc).1
  unfold Memory.write
  split
  · exact ⟨risesFrom_erase a hm.1, fun c hc => hm.2 c (herase c hc)⟩
  · rename_i hb
    refine ⟨risesFrom_insertCell a b (erase_not_listed m a) (Nat.zero_le a) (risesFrom_erase a hm.1), fun c hc => ?_⟩
    rcases mem_insertCell hc with rfl | hc
    · simp [ha, hb]
    · exact hm.2 c (herase c hc)

theorem wf_writeBytes (bs : List Byte) {m : Memory} (hm : Memory.wf m = true) {a : Nat}
    (ha : a + bs.length ≤ Config.memSize) : Memory.wf (Memory.writeBytes m a bs) = true := by
  induction bs generalizing m a with
  | nil => exact hm
  | cons b bs ih =>
    simp only [List.length_cons] at ha
    exact ih (wf_write hm (by omega) b) (by omega)

end Sys2Proof.Machine
end

