-- ==== Sys2Proof/Laws/State.lean ====
section
/-! SUPPORT. One lemma per field per update of State, so that no later proof unfolds a record update. -/

namespace Sys2Proof.Machine

variable (s : State)

/-! ### `setReg` -/

@[simp] theorem setReg_v (x : RegIx) (b : Byte) : (s.setReg x b).v = s.v.set x b := rfl
@[simp] theorem setReg_i (x : RegIx) (b : Byte) : (s.setReg x b).i = s.i := rfl
@[simp] theorem setReg_pc (x : RegIx) (b : Byte) : (s.setReg x b).pc = s.pc := rfl
@[simp] theorem setReg_sp (x : RegIx) (b : Byte) : (s.setReg x b).sp = s.sp := rfl
@[simp] theorem setReg_stack (x : RegIx) (b : Byte) : (s.setReg x b).stack = s.stack := rfl
@[simp] theorem setReg_dt (x : RegIx) (b : Byte) : (s.setReg x b).dt = s.dt := rfl
@[simp] theorem setReg_st (x : RegIx) (b : Byte) : (s.setReg x b).st = s.st := rfl
@[simp] theorem setReg_disp (x : RegIx) (b : Byte) : (s.setReg x b).disp = s.disp := rfl
@[simp] theorem setReg_key (x : RegIx) (b : Byte) : (s.setReg x b).key = s.key := rfl
@[simp] theorem setReg_mem (x : RegIx) (b : Byte) : (s.setReg x b).mem = s.mem := rfl
@[simp] theorem setReg_faultCause (x : RegIx) (b : Byte) : (s.setReg x b).faultCause = s.faultCause := rfl
@[simp] theorem setReg_faultPc (x : RegIx) (b : Byte) : (s.setReg x b).faultPc = s.faultPc := rfl
@[simp] theorem setReg_phase (x : RegIx) (b : Byte) : (s.setReg x b).phase = s.phase := rfl
@[simp] theorem setReg_cyc (x : RegIx) (b : Byte) : (s.setReg x b).cyc = s.cyc := rfl
@[simp] theorem setReg_outDisp (x : RegIx) (b : Byte) : (s.setReg x b).outDisp = s.outDisp := rfl
@[simp] theorem setReg_outSound (x : RegIx) (b : Byte) : (s.setReg x b).outSound = s.outSound := rfl
@[simp] theorem setReg_outDiag (x : RegIx) (b : Byte) : (s.setReg x b).outDiag = s.outDiag := rfl
@[simp] theorem setReg_port (x : RegIx) (b : Byte) : (s.setReg x b).port = s.port := rfl

/-! ### `setPc` -/

@[simp] theorem setPc_v (a : Word) : (s.setPc a).v = s.v := rfl
@[simp] theorem setPc_i (a : Word) : (s.setPc a).i = s.i := rfl
@[simp] theorem setPc_pc (a : Word) : (s.setPc a).pc = a := rfl
@[simp] theorem setPc_sp (a : Word) : (s.setPc a).sp = s.sp := rfl
@[simp] theorem setPc_stack (a : Word) : (s.setPc a).stack = s.stack := rfl
@[simp] theorem setPc_dt (a : Word) : (s.setPc a).dt = s.dt := rfl
@[simp] theorem setPc_st (a : Word) : (s.setPc a).st = s.st := rfl
@[simp] theorem setPc_disp (a : Word) : (s.setPc a).disp = s.disp := rfl
@[simp] theorem setPc_key (a : Word) : (s.setPc a).key = s.key := rfl
@[simp] theorem setPc_mem (a : Word) : (s.setPc a).mem = s.mem := rfl
@[simp] theorem setPc_faultCause (a : Word) : (s.setPc a).faultCause = s.faultCause := rfl
@[simp] theorem setPc_faultPc (a : Word) : (s.setPc a).faultPc = s.faultPc := rfl
@[simp] theorem setPc_phase (a : Word) : (s.setPc a).phase = s.phase := rfl
@[simp] theorem setPc_cyc (a : Word) : (s.setPc a).cyc = s.cyc := rfl
@[simp] theorem setPc_outDisp (a : Word) : (s.setPc a).outDisp = s.outDisp := rfl
@[simp] theorem setPc_outSound (a : Word) : (s.setPc a).outSound = s.outSound := rfl
@[simp] theorem setPc_outDiag (a : Word) : (s.setPc a).outDiag = s.outDiag := rfl
@[simp] theorem setPc_port (a : Word) : (s.setPc a).port = s.port := rfl

/-! ### `setIndex` -/

@[simp] theorem setIndex_v (a : Word) : (s.setIndex a).v = s.v := rfl
@[simp] theorem setIndex_i (a : Word) : (s.setIndex a).i = a := rfl
@[simp] theorem setIndex_pc (a : Word) : (s.setIndex a).pc = s.pc := rfl
@[simp] theorem setIndex_sp (a : Word) : (s.setIndex a).sp = s.sp := rfl
@[simp] theorem setIndex_stack (a : Word) : (s.setIndex a).stack = s.stack := rfl
@[simp] theorem setIndex_dt (a : Word) : (s.setIndex a).dt = s.dt := rfl
@[simp] theorem setIndex_st (a : Word) : (s.setIndex a).st = s.st := rfl
@[simp] theorem setIndex_disp (a : Word) : (s.setIndex a).disp = s.disp := rfl
@[simp] theorem setIndex_key (a : Word) : (s.setIndex a).key = s.key := rfl
@[simp] theorem setIndex_mem (a : Word) : (s.setIndex a).mem = s.mem := rfl
@[simp] theorem setIndex_faultCause (a : Word) : (s.setIndex a).faultCause = s.faultCause := rfl
@[simp] theorem setIndex_faultPc (a : Word) : (s.setIndex a).faultPc = s.faultPc := rfl
@[simp] theorem setIndex_phase (a : Word) : (s.setIndex a).phase = s.phase := rfl
@[simp] theorem setIndex_cyc (a : Word) : (s.setIndex a).cyc = s.cyc := rfl
@[simp] theorem setIndex_outDisp (a : Word) : (s.setIndex a).outDisp = s.outDisp := rfl
@[simp] theorem setIndex_outSound (a : Word) : (s.setIndex a).outSound = s.outSound := rfl
@[simp] theorem setIndex_outDiag (a : Word) : (s.setIndex a).outDiag = s.outDiag := rfl
@[simp] theorem setIndex_port (a : Word) : (s.setIndex a).port = s.port := rfl

/-! ### `setDelay` -/

@[simp] theorem setDelay_v (b : Byte) : (s.setDelay b).v = s.v := rfl
@[simp] theorem setDelay_i (b : Byte) : (s.setDelay b).i = s.i := rfl
@[simp] theorem setDelay_pc (b : Byte) : (s.setDelay b).pc = s.pc := rfl
@[simp] theorem setDelay_sp (b : Byte) : (s.setDelay b).sp = s.sp := rfl
@[simp] theorem setDelay_stack (b : Byte) : (s.setDelay b).stack = s.stack := rfl
@[simp] theorem setDelay_dt (b : Byte) : (s.setDelay b).dt = b := rfl
@[simp] theorem setDelay_st (b : Byte) : (s.setDelay b).st = s.st := rfl
@[simp] theorem setDelay_disp (b : Byte) : (s.setDelay b).disp = s.disp := rfl
@[simp] theorem setDelay_key (b : Byte) : (s.setDelay b).key = s.key := rfl
@[simp] theorem setDelay_mem (b : Byte) : (s.setDelay b).mem = s.mem := rfl
@[simp] theorem setDelay_faultCause (b : Byte) : (s.setDelay b).faultCause = s.faultCause := rfl
@[simp] theorem setDelay_faultPc (b : Byte) : (s.setDelay b).faultPc = s.faultPc := rfl
@[simp] theorem setDelay_phase (b : Byte) : (s.setDelay b).phase = s.phase := rfl
@[simp] theorem setDelay_cyc (b : Byte) : (s.setDelay b).cyc = s.cyc := rfl
@[simp] theorem setDelay_outDisp (b : Byte) : (s.setDelay b).outDisp = s.outDisp := rfl
@[simp] theorem setDelay_outSound (b : Byte) : (s.setDelay b).outSound = s.outSound := rfl
@[simp] theorem setDelay_outDiag (b : Byte) : (s.setDelay b).outDiag = s.outDiag := rfl
@[simp] theorem setDelay_port (b : Byte) : (s.setDelay b).port = s.port := rfl

/-! ### `setSound` -/

@[simp] theorem setSound_v (b : Byte) : (s.setSound b).v = s.v := rfl
@[simp] theorem setSound_i (b : Byte) : (s.setSound b).i = s.i := rfl
@[simp] theorem setSound_pc (b : Byte) : (s.setSound b).pc = s.pc := rfl
@[simp] theorem setSound_sp (b : Byte) : (s.setSound b).sp = s.sp := rfl
@[simp] theorem setSound_stack (b : Byte) : (s.setSound b).stack = s.stack := rfl
@[simp] theorem setSound_dt (b : Byte) : (s.setSound b).dt = s.dt := rfl
@[simp] theorem setSound_st (b : Byte) : (s.setSound b).st = b := rfl
@[simp] theorem setSound_disp (b : Byte) : (s.setSound b).disp = s.disp := rfl
@[simp] theorem setSound_key (b : Byte) : (s.setSound b).key = s.key := rfl
@[simp] theorem setSound_mem (b : Byte) : (s.setSound b).mem = s.mem := rfl
@[simp] theorem setSound_faultCause (b : Byte) : (s.setSound b).faultCause = s.faultCause := rfl
@[simp] theorem setSound_faultPc (b : Byte) : (s.setSound b).faultPc = s.faultPc := rfl
@[simp] theorem setSound_phase (b : Byte) : (s.setSound b).phase = s.phase := rfl
@[simp] theorem setSound_cyc (b : Byte) : (s.setSound b).cyc = s.cyc := rfl
@[simp] theorem setSound_outDisp (b : Byte) : (s.setSound b).outDisp = s.outDisp := rfl
@[simp] theorem setSound_outSound (b : Byte) : (s.setSound b).outSound = s.outSound := rfl
@[simp] theorem setSound_outDiag (b : Byte) : (s.setSound b).outDiag = s.outDiag := rfl
@[simp] theorem setSound_port (b : Byte) : (s.setSound b).port = s.port := rfl

/-! ### `setDisp` -/

@[simp] theorem setDisp_v (d : Display) : (s.setDisp d).v = s.v := rfl
@[simp] theorem setDisp_i (d : Display) : (s.setDisp d).i = s.i := rfl
@[simp] theorem setDisp_pc (d : Display) : (s.setDisp d).pc = s.pc := rfl
@[simp] theorem setDisp_sp (d : Display) : (s.setDisp d).sp = s.sp := rfl
@[simp] theorem setDisp_stack (d : Display) : (s.setDisp d).stack = s.stack := rfl
@[simp] theorem setDisp_dt (d : Display) : (s.setDisp d).dt = s.dt := rfl
@[simp] theorem setDisp_st (d : Display) : (s.setDisp d).st = s.st := rfl
@[simp] theorem setDisp_disp (d : Display) : (s.setDisp d).disp = d := rfl
@[simp] theorem setDisp_key (d : Display) : (s.setDisp d).key = s.key := rfl
@[simp] theorem setDisp_mem (d : Display) : (s.setDisp d).mem = s.mem := rfl
@[simp] theorem setDisp_faultCause (d : Display) : (s.setDisp d).faultCause = s.faultCause := rfl
@[simp] theorem setDisp_faultPc (d : Display) : (s.setDisp d).faultPc = s.faultPc := rfl
@[simp] theorem setDisp_phase (d : Display) : (s.setDisp d).phase = s.phase := rfl
@[simp] theorem setDisp_cyc (d : Display) : (s.setDisp d).cyc = s.cyc := rfl
@[simp] theorem setDisp_outDisp (d : Display) : (s.setDisp d).outDisp = s.outDisp := rfl
@[simp] theorem setDisp_outSound (d : Display) : (s.setDisp d).outSound = s.outSound := rfl
@[simp] theorem setDisp_outDiag (d : Display) : (s.setDisp d).outDiag = s.outDiag := rfl
@[simp] theorem setDisp_port (d : Display) : (s.setDisp d).port = s.port := rfl

/-! ### `setMem` -/

@[simp] theorem setMem_v (m : Memory) : (s.setMem m).v = s.v := rfl
@[simp] theorem setMem_i (m : Memory) : (s.setMem m).i = s.i := rfl
@[simp] theorem setMem_pc (m : Memory) : (s.setMem m).pc = s.pc := rfl
@[simp] theorem setMem_sp (m : Memory) : (s.setMem m).sp = s.sp := rfl
@[simp] theorem setMem_stack (m : Memory) : (s.setMem m).stack = s.stack := rfl
@[simp] theorem setMem_dt (m : Memory) : (s.setMem m).dt = s.dt := rfl
@[simp] theorem setMem_st (m : Memory) : (s.setMem m).st = s.st := rfl
@[simp] theorem setMem_disp (m : Memory) : (s.setMem m).disp = s.disp := rfl
@[simp] theorem setMem_key (m : Memory) : (s.setMem m).key = s.key := rfl
@[simp] theorem setMem_mem (m : Memory) : (s.setMem m).mem = m := rfl
@[simp] theorem setMem_faultCause (m : Memory) : (s.setMem m).faultCause = s.faultCause := rfl
@[simp] theorem setMem_faultPc (m : Memory) : (s.setMem m).faultPc = s.faultPc := rfl
@[simp] theorem setMem_phase (m : Memory) : (s.setMem m).phase = s.phase := rfl
@[simp] theorem setMem_cyc (m : Memory) : (s.setMem m).cyc = s.cyc := rfl
@[simp] theorem setMem_outDisp (m : Memory) : (s.setMem m).outDisp = s.outDisp := rfl
@[simp] theorem setMem_outSound (m : Memory) : (s.setMem m).outSound = s.outSound := rfl
@[simp] theorem setMem_outDiag (m : Memory) : (s.setMem m).outDiag = s.outDiag := rfl
@[simp] theorem setMem_port (m : Memory) : (s.setMem m).port = s.port := rfl

/-! ### `setRegs` -/

@[simp] theorem setRegs_v (v : Vector Byte 16) : (s.setRegs v).v = v := rfl
@[simp] theorem setRegs_i (v : Vector Byte 16) : (s.setRegs v).i = s.i := rfl
@[simp] theorem setRegs_pc (v : Vector Byte 16) : (s.setRegs v).pc = s.pc := rfl
@[simp] theorem setRegs_sp (v : Vector Byte 16) : (s.setRegs v).sp = s.sp := rfl
@[simp] theorem setRegs_stack (v : Vector Byte 16) : (s.setRegs v).stack = s.stack := rfl
@[simp] theorem setRegs_dt (v : Vector Byte 16) : (s.setRegs v).dt = s.dt := rfl
@[simp] theorem setRegs_st (v : Vector Byte 16) : (s.setRegs v).st = s.st := rfl
@[simp] theorem setRegs_disp (v : Vector Byte 16) : (s.setRegs v).disp = s.disp := rfl
@[simp] theorem setRegs_key (v : Vector Byte 16) : (s.setRegs v).key = s.key := rfl
@[simp] theorem setRegs_mem (v : Vector Byte 16) : (s.setRegs v).mem = s.mem := rfl
@[simp] theorem setRegs_faultCause (v : Vector Byte 16) : (s.setRegs v).faultCause = s.faultCause := rfl
@[simp] theorem setRegs_faultPc (v : Vector Byte 16) : (s.setRegs v).faultPc = s.faultPc := rfl
@[simp] theorem setRegs_phase (v : Vector Byte 16) : (s.setRegs v).phase = s.phase := rfl
@[simp] theorem setRegs_cyc (v : Vector Byte 16) : (s.setRegs v).cyc = s.cyc := rfl
@[simp] theorem setRegs_outDisp (v : Vector Byte 16) : (s.setRegs v).outDisp = s.outDisp := rfl
@[simp] theorem setRegs_outSound (v : Vector Byte 16) : (s.setRegs v).outSound = s.outSound := rfl
@[simp] theorem setRegs_outDiag (v : Vector Byte 16) : (s.setRegs v).outDiag = s.outDiag := rfl
@[simp] theorem setRegs_port (v : Vector Byte 16) : (s.setRegs v).port = s.port := rfl

/-! ### `advance` -/

@[simp] theorem advance_v : (s.advance).v = s.v := rfl
@[simp] theorem advance_i : (s.advance).i = s.i := rfl
@[simp] theorem advance_pc : (s.advance).pc = s.pc + 2 := rfl
@[simp] theorem advance_sp : (s.advance).sp = s.sp := rfl
@[simp] theorem advance_stack : (s.advance).stack = s.stack := rfl
@[simp] theorem advance_dt : (s.advance).dt = s.dt := rfl
@[simp] theorem advance_st : (s.advance).st = s.st := rfl
@[simp] theorem advance_disp : (s.advance).disp = s.disp := rfl
@[simp] theorem advance_key : (s.advance).key = s.key := rfl
@[simp] theorem advance_mem : (s.advance).mem = s.mem := rfl
@[simp] theorem advance_faultCause : (s.advance).faultCause = s.faultCause := rfl
@[simp] theorem advance_faultPc : (s.advance).faultPc = s.faultPc := rfl
@[simp] theorem advance_phase : (s.advance).phase = s.phase := rfl
@[simp] theorem advance_cyc : (s.advance).cyc = s.cyc := rfl
@[simp] theorem advance_outDisp : (s.advance).outDisp = s.outDisp := rfl
@[simp] theorem advance_outSound : (s.advance).outSound = s.outSound := rfl
@[simp] theorem advance_outDiag : (s.advance).outDiag = s.outDiag := rfl
@[simp] theorem advance_port : (s.advance).port = s.port := rfl

/-! ### `pushPc` -/

@[simp] theorem pushPc_v : (s.pushPc).v = s.v := rfl
@[simp] theorem pushPc_i : (s.pushPc).i = s.i := rfl
@[simp] theorem pushPc_pc : (s.pushPc).pc = s.pc := rfl
@[simp] theorem pushPc_sp : (s.pushPc).sp = s.sp + 1 := rfl
@[simp] theorem pushPc_stack : (s.pushPc).stack = s.stack.set (s.sp + 1 : Fin 16) s.pc := rfl
@[simp] theorem pushPc_dt : (s.pushPc).dt = s.dt := rfl
@[simp] theorem pushPc_st : (s.pushPc).st = s.st := rfl
@[simp] theorem pushPc_disp : (s.pushPc).disp = s.disp := rfl
@[simp] theorem pushPc_key : (s.pushPc).key = s.key := rfl
@[simp] theorem pushPc_mem : (s.pushPc).mem = s.mem := rfl
@[simp] theorem pushPc_faultCause : (s.pushPc).faultCause = s.faultCause := rfl
@[simp] theorem pushPc_faultPc : (s.pushPc).faultPc = s.faultPc := rfl
@[simp] theorem pushPc_phase : (s.pushPc).phase = s.phase := rfl
@[simp] theorem pushPc_cyc : (s.pushPc).cyc = s.cyc := rfl
@[simp] theorem pushPc_outDisp : (s.pushPc).outDisp = s.outDisp := rfl
@[simp] theorem pushPc_outSound : (s.pushPc).outSound = s.outSound := rfl
@[simp] theorem pushPc_outDiag : (s.pushPc).outDiag = s.outDiag := rfl
@[simp] theorem pushPc_port : (s.pushPc).port = s.port := rfl

/-! ### `popPc` -/

@[simp] theorem popPc_v : (s.popPc).v = s.v := rfl
@[simp] theorem popPc_i : (s.popPc).i = s.i := rfl
@[simp] theorem popPc_pc : (s.popPc).pc = s.stack[s.sp] := rfl
@[simp] theorem popPc_sp : (s.popPc).sp = s.sp - 1 := rfl
@[simp] theorem popPc_stack : (s.popPc).stack = s.stack := rfl
@[simp] theorem popPc_dt : (s.popPc).dt = s.dt := rfl
@[simp] theorem popPc_st : (s.popPc).st = s.st := rfl
@[simp] theorem popPc_disp : (s.popPc).disp = s.disp := rfl
@[simp] theorem popPc_key : (s.popPc).key = s.key := rfl
@[simp] theorem popPc_mem : (s.popPc).mem = s.mem := rfl
@[simp] theorem popPc_faultCause : (s.popPc).faultCause = s.faultCause := rfl
@[simp] theorem popPc_faultPc : (s.popPc).faultPc = s.faultPc := rfl
@[simp] theorem popPc_phase : (s.popPc).phase = s.phase := rfl
@[simp] theorem popPc_cyc : (s.popPc).cyc = s.cyc := rfl
@[simp] theorem popPc_outDisp : (s.popPc).outDisp = s.outDisp := rfl
@[simp] theorem popPc_outSound : (s.popPc).outSound = s.outSound := rfl
@[simp] theorem popPc_outDiag : (s.popPc).outDiag = s.outDiag := rfl
@[simp] theorem popPc_port : (s.popPc).port = s.port := rfl

/-! ### `raiseFault` -/

@[simp] theorem raiseFault_v (c : FaultCause) (a : Word) : (s.raiseFault c a).v = s.v := rfl
@[simp] theorem raiseFault_i (c : FaultCause) (a : Word) : (s.raiseFault c a).i = s.i := rfl
@[simp] theorem raiseFault_pc (c : FaultCause) (a : Word) : (s.raiseFault c a).pc = a := rfl
@[simp] theorem raiseFault_sp (c : FaultCause) (a : Word) : (s.raiseFault c a).sp = s.sp := rfl
@[simp] theorem raiseFault_stack (c : FaultCause) (a : Word) : (s.raiseFault c a).stack = s.stack := rfl
@[simp] theorem raiseFault_dt (c : FaultCause) (a : Word) : (s.raiseFault c a).dt = s.dt := rfl
@[simp] theorem raiseFault_st (c : FaultCause) (a : Word) : (s.raiseFault c a).st = s.st := rfl
@[simp] theorem raiseFault_disp (c : FaultCause) (a : Word) : (s.raiseFault c a).disp = s.disp := rfl
@[simp] theorem raiseFault_key (c : FaultCause) (a : Word) : (s.raiseFault c a).key = s.key := rfl
@[simp] theorem raiseFault_mem (c : FaultCause) (a : Word) : (s.raiseFault c a).mem = s.mem := rfl
@[simp] theorem raiseFault_faultCause (c : FaultCause) (a : Word) : (s.raiseFault c a).faultCause = c := rfl
@[simp] theorem raiseFault_faultPc (c : FaultCause) (a : Word) : (s.raiseFault c a).faultPc = a := rfl
@[simp] theorem raiseFault_phase (c : FaultCause) (a : Word) : (s.raiseFault c a).phase = s.phase := rfl
@[simp] theorem raiseFault_cyc (c : FaultCause) (a : Word) : (s.raiseFault c a).cyc = s.cyc := rfl
@[simp] theorem raiseFault_outDisp (c : FaultCause) (a : Word) : (s.raiseFault c a).outDisp = s.outDisp := rfl
@[simp] theorem raiseFault_outSound (c : FaultCause) (a : Word) : (s.raiseFault c a).outSound = s.outSound := rfl
@[simp] theorem raiseFault_outDiag (c : FaultCause) (a : Word) : (s.raiseFault c a).outDiag = s.outDiag := rfl
@[simp] theorem raiseFault_port (c : FaultCause) (a : Word) : (s.raiseFault c a).port = s.port := rfl

/-! ### `takeDraw` -/

@[simp] theorem takeDraw_v : (s.takeDraw).v = s.v := rfl
@[simp] theorem takeDraw_i : (s.takeDraw).i = s.i := rfl
@[simp] theorem takeDraw_pc : (s.takeDraw).pc = s.pc := rfl
@[simp] theorem takeDraw_sp : (s.takeDraw).sp = s.sp := rfl
@[simp] theorem takeDraw_stack : (s.takeDraw).stack = s.stack := rfl
@[simp] theorem takeDraw_dt : (s.takeDraw).dt = s.dt := rfl
@[simp] theorem takeDraw_st : (s.takeDraw).st = s.st := rfl
@[simp] theorem takeDraw_disp : (s.takeDraw).disp = s.disp := rfl
@[simp] theorem takeDraw_key : (s.takeDraw).key = s.key := rfl
@[simp] theorem takeDraw_mem : (s.takeDraw).mem = s.mem := rfl
@[simp] theorem takeDraw_faultCause : (s.takeDraw).faultCause = s.faultCause := rfl
@[simp] theorem takeDraw_faultPc : (s.takeDraw).faultPc = s.faultPc := rfl
@[simp] theorem takeDraw_phase : (s.takeDraw).phase = s.phase := rfl
@[simp] theorem takeDraw_cyc : (s.takeDraw).cyc = s.cyc := rfl
@[simp] theorem takeDraw_outDisp : (s.takeDraw).outDisp = s.outDisp := rfl
@[simp] theorem takeDraw_outSound : (s.takeDraw).outSound = s.outSound := rfl
@[simp] theorem takeDraw_outDiag : (s.takeDraw).outDiag = s.outDiag := rfl
@[simp] theorem takeDraw_port : (s.takeDraw).port = { s.port with rand := s.port.rand.tail, draws := s.port.draws + 1 } := rfl

/-! ### `endSlot` -/

@[simp] theorem endSlot_v : (s.endSlot).v = s.v := rfl
@[simp] theorem endSlot_i : (s.endSlot).i = s.i := rfl
@[simp] theorem endSlot_pc : (s.endSlot).pc = s.pc := rfl
@[simp] theorem endSlot_sp : (s.endSlot).sp = s.sp := rfl
@[simp] theorem endSlot_stack : (s.endSlot).stack = s.stack := rfl
@[simp] theorem endSlot_dt : (s.endSlot).dt = s.dt := rfl
@[simp] theorem endSlot_st : (s.endSlot).st = s.st := rfl
@[simp] theorem endSlot_disp : (s.endSlot).disp = s.disp := rfl
@[simp] theorem endSlot_key : (s.endSlot).key = s.key := rfl
@[simp] theorem endSlot_mem : (s.endSlot).mem = s.mem := rfl
@[simp] theorem endSlot_faultCause : (s.endSlot).faultCause = s.faultCause := rfl
@[simp] theorem endSlot_faultPc : (s.endSlot).faultPc = s.faultPc := rfl
@[simp] theorem endSlot_phase : (s.endSlot).phase = s.phase := rfl
@[simp] theorem endSlot_cyc : (s.endSlot).cyc = s.cyc - 1 := rfl
@[simp] theorem endSlot_outDisp : (s.endSlot).outDisp = s.outDisp := rfl
@[simp] theorem endSlot_outSound : (s.endSlot).outSound = s.outSound := rfl
@[simp] theorem endSlot_outDiag : (s.endSlot).outDiag = s.outDiag := rfl
@[simp] theorem endSlot_port : (s.endSlot).port = s.port := rfl

end Sys2Proof.Machine
end

