-- ==== Sys2Proof/Laws/Ops.lean ====
section
/-! SUPPORT. One lemma per shared operation that says what it can do, so that no later proof unfolds it. -/

namespace Sys2Proof.Machine

/-! ## Registers -/

/-- A register write changes that register and no other. -/
theorem reg_setReg (s : State) (x r : RegIx) (b : Byte) : (s.setReg x b).reg r = if r = x then b else s.reg r := by
  unfold State.reg State.setReg
  simp only [Fin.getElem_fin, Vector.getElem_set]
  by_cases h : r = x
  · simp [h]
  · have h' : ¬ x.val = r.val := fun e => h (Fin.ext e.symm)
    simp [h, h']

/-- The same for the register file itself. -/
theorem regs_set (v : Vector Byte 16) (x r : RegIx) (b : Byte) : (v.set x b)[r] = if r = x then b else v[r] :=
  reg_setReg { State.reset with v := v } x r b

@[simp] theorem reg_setReg_same (s : State) (x : RegIx) (b : Byte) : (s.setReg x b).reg x = b := by
  simp [reg_setReg]

/-- Two states with one register file read the same registers. -/
theorem reg_congr {s t : State} (h : t.v = s.v) (r : RegIx) : t.reg r = s.reg r := by
  simp [State.reg, h]

@[simp] theorem reg_setPc (s : State) (a : Word) (r : RegIx) : (s.setPc a).reg r = s.reg r := rfl
@[simp] theorem reg_setIndex (s : State) (a : Word) (r : RegIx) : (s.setIndex a).reg r = s.reg r := rfl
@[simp] theorem reg_setDisp (s : State) (d : Display) (r : RegIx) : (s.setDisp d).reg r = s.reg r := rfl
@[simp] theorem reg_setMem (s : State) (m : Memory) (r : RegIx) : (s.setMem m).reg r = s.reg r := rfl
@[simp] theorem reg_setDelay (s : State) (b : Byte) (r : RegIx) : (s.setDelay b).reg r = s.reg r := rfl
@[simp] theorem reg_setSound (s : State) (b : Byte) (r : RegIx) : (s.setSound b).reg r = s.reg r := rfl
@[simp] theorem reg_takeDraw (s : State) (r : RegIx) : s.takeDraw.reg r = s.reg r := rfl

/-- Flag first, result second: the result wins in VF (R120). -/
theorem reg_setFlagThenReg (s : State) (x r : RegIx) (flag result : Byte) :
    (s.setFlagThenReg x flag result).reg r = if r = x then result else if r = regF then flag else s.reg r := by
  simp [State.setFlagThenReg, reg_setReg]

/-- Nothing but the register file changes. -/
theorem setFlagThenReg_eq (s : State) (x : RegIx) (flag result : Byte) :
    s.setFlagThenReg x flag result = { s with v := (s.setFlagThenReg x flag result).v } := rfl

/-! ## Program counter -/

/-- A skip is a write of PC, taken or not (R100). -/
theorem skipIf_eq (s : State) (c : Bool) : s.skipIf c = { s with pc := if c then s.pc + 2 else s.pc } := by
  cases c <;> rfl

/-- The fetch advance is undone exactly by the instruction's address (R89). -/
@[simp] theorem instrAddr_advance (s : State) : s.advance.instrAddr = s.pc := by
  simp [State.instrAddr]

/-! ## Faults -/

@[simp] theorem guardFault_true (s : State) (c : FaultCause) (body : State) : s.guardFault true c body = body := rfl

@[simp] theorem guardFault_false (s : State) (c : FaultCause) (body : State) :
    s.guardFault false c body = s.raiseFault c s.instrAddr := rfl

/-- The check passes: the effect. -/
theorem guardFault_of_pass (s : State) {ok : Bool} (h : ok = true) (c : FaultCause) (body : State) :
    s.guardFault ok c body = body := by subst h; rfl

/-- The check fails: the fault. -/
theorem guardFault_of_fail (s : State) {ok : Bool} (h : ok = false) (c : FaultCause) (body : State) :
    s.guardFault ok c body = s.raiseFault c s.instrAddr := by subst h; rfl

/-- A guarded effect is the effect, or the fault and nothing else. -/
theorem guardFault_cases (s : State) (ok : Bool) (c : FaultCause) (body : State) :
    (ok = true ∧ s.guardFault ok c body = body) ∨
    (ok = false ∧ s.guardFault ok c body = s.raiseFault c s.instrAddr) := by
  cases ok <;> simp

theorem addressExists_iff (a : Nat) : addressExists a = true ↔ a ≤ 0xFFF := by
  unfold addressExists Config.memSize
  rw [decide_eq_true_eq]
  omega

/-- A range passes its check when it is empty or its last byte exists (R48). -/
theorem spanExists_iff (base n : Nat) : spanExists base n = true ↔ n = 0 ∨ base + n - 1 ≤ 0xFFF := by
  simp [spanExists, addressExists_iff]

/-! ## Fetch -/

theorem fetchWord_of_le (s : State) (h : s.pc.toNat + 1 ≤ 0xFFF) :
    s.fetchWord = some (wordOfBytes (Memory.read s.mem s.pc.toNat) (Memory.read s.mem (s.pc.toNat + 1))) := by
  simp [State.fetchWord, (addressExists_iff _).mpr h]

theorem fetchWord_of_gt (s : State) (h : 0xFFF < s.pc.toNat + 1) : s.fetchWord = none := by
  have : addressExists (s.pc.toNat + 1) = false := by
    rw [Bool.eq_false_iff, Ne, addressExists_iff]; omega
  simp [State.fetchWord, this]

/-- `(high << 8) | low` is the concatenation (R50). -/
theorem wordOfBytes_toNat (hi lo : Byte) : (wordOfBytes hi lo).toNat = hi.toNat * 256 + lo.toNat :=
  append_toNat hi lo

/-! ## Stores and loads through I -/

/-- A store through I writes exactly the bytes, or faults and writes none (R154, R155). -/
theorem storeAtIndex_cases (s : State) (bs : List Byte) :
    (s.indexSpanExists bs.length = true ∧ s.storeAtIndex bs = s.setMem (Memory.writeBytes s.mem s.i.toNat bs)) ∨
    (s.indexSpanExists bs.length = false ∧ s.storeAtIndex bs = s.raiseFault .memOob s.instrAddr) := by
  rcases guardFault_cases s (s.indexSpanExists bs.length) .memOob
    (s.setMem (Memory.writeBytes s.mem (s.indexAddr 0) bs)) with h | h
  · exact .inl ⟨h.1, by simpa [State.storeAtIndex, State.indexAddr] using h.2⟩
  · exact .inr ⟨h.1, by simpa [State.storeAtIndex] using h.2⟩

/-- The registers of a block instruction are 0..x in order. -/
theorem regsUpTo_length (x : RegIx) : (regsUpTo x).length = x.val + 1 := by
  revert x; decide

theorem regsUpTo_getElem? (x : RegIx) (k : Nat) (h : k ≤ x.val) : (regsUpTo x)[k]? = some ⟨k, by omega⟩ := by
  have : ∀ (x : Fin 16) (k : Fin 16), k ≤ x → (regsUpTo x)[k.val]? = some k := by decide
  exact this x ⟨k, by omega⟩ h

theorem mem_regsUpTo (x r : RegIx) : r ∈ regsUpTo x ↔ r ≤ x := by
  revert x r; decide

/-- Loading a list of registers loads each from its own address and leaves the others (R156). -/
theorem loadRegFile_getElem (s : State) (rs : List RegIx) (v : Vector Byte 16) (r : RegIx) :
    (loadRegFile s rs v)[r] = if r ∈ rs then s.indexByte r.val else v[r] := by
  induction rs generalizing v with
  | nil => simp [loadRegFile]
  | cons q rs ih =>
    rw [loadRegFile, ih]
    by_cases h : r ∈ rs
    · simp [h]
    · by_cases hq : r = q
      · subst hq; simp [h]
      · have hq' : ¬ q.val = r.val := fun e => hq (Fin.ext e.symm)
        simp [h, hq, hq']

/-! ## Frame controller -/

/-- A timer counts down and stops at 0 (R220). -/
theorem tickTimer_toNat (t : Byte) : (tickTimer t).toNat = t.toNat - 1 := by
  revert t; decide

end Sys2Proof.Machine
end

