-- ==== Sys2Proof/Laws/Display.lean ====
section
/-! SUPPORT. The laws of the display unit: what a toggle, one drawn bit and one drawn row do to every cell and to VF. -/

namespace Sys2Proof.Machine

theorem rowIndex_eq_iff (py qy : Nat) : rowIndex py = rowIndex qy ↔ py % 32 = qy % 32 := by
  simp [rowIndex, Fin.ext_iff, Fin.ofNat]

/-- A toggle flips the named cell and no other (R171). -/
theorem cell_toggle (d : Display) (px py qx qy : Nat) :
    Display.cell (Display.toggle d px py).1 qx qy =
      ((Display.cell d qx qy) ^^ decide (px % 64 = qx % 64 ∧ py % 32 = qy % 32)) := by
  have hx : px % 64 < 64 := Nat.mod_lt _ (by decide)
  by_cases hy : py % 32 = qy % 32
  · have hr : rowIndex py = rowIndex qy := (rowIndex_eq_iff py qy).mpr hy
    simp [Display.cell, Display.toggle, hr, hy, hx, BitVec.getLsbD_twoPow]
  · have hr : ¬ (rowIndex py).val = (rowIndex qy).val :=
      fun e => hy ((rowIndex_eq_iff py qy).mp (Fin.ext e))
    simp [Display.cell, Display.toggle, hy, hr]

/-- A toggle answers whether the cell was on (R171, R178). -/
theorem toggle_nowOff (d : Display) (px py : Nat) : (Display.toggle d px py).2 = Display.cell d px py := by
  have h := cell_toggle d px py px py
  simp only [Display.toggle] at h ⊢
  rw [h]
  simp

@[simp] theorem cell_clear (qx qy : Nat) : Display.cell Display.clear qx qy = false := by
  simp [Display.cell, Display.clear]

/-- Two displays with the same 64 x 32 cells are equal (R29). -/
theorem display_ext {d e : Display} (h : ∀ cx cy, cx < 64 → cy < 32 → Display.cell d cx cy = Display.cell e cx cy) :
    d = e := by
  apply Vector.ext
  intro r hr
  apply BitVec.eq_of_getLsbD_eq
  intro c hc
  have := h c r hc hr
  simpa [Display.cell, rowIndex, Nat.mod_eq_of_lt hc, Nat.mod_eq_of_lt hr] using this

/-- One toggled cell of a draw: the cell flips, and VF becomes 1 if it was on (R175, R178). -/
theorem toggleCell_eq (s : State) (cx cy : Nat) :
    s.toggleCell cx cy =
      { s with disp := (Display.toggle s.disp cx cy).1,
               v := if Display.cell s.disp cx cy then s.v.set regF 1 else s.v } := by
  unfold State.toggleCell State.noteCollision
  rw [toggle_nowOff]
  split <;> simp_all [State.setReg, State.setDisp]

/-! ## One drawn row -/

/-- Does one of the `k` bits, the first at column `cx`, turn a cell of `d` off? -/
def bitsHit (b : Byte) (cy k cx : Nat) (d : Display) : Bool :=
  (List.range k).any fun j => cx + j < 64 && b.getLsbD (k - 1 - j) && Display.cell d (cx + j) cy

/-- Does one of the `k` bits, the first at column `cx`, toggle cell `(qx, qy)`? -/
def bitsToggle (b : Byte) (cy k cx qx qy : Nat) : Bool :=
  qy = cy && cx ≤ qx && qx - cx < k && b.getLsbD (k - 1 - (qx - cx))

theorem bitsHit_succ (b : Byte) (cy k cx : Nat) (d : Display) :
    bitsHit b cy (k + 1) cx d =
      ((cx < 64 && b.getLsbD k && Display.cell d cx cy) || bitsHit b cy k (cx + 1) d) := by
  simp only [bitsHit, List.range_succ_eq_map, List.any_cons, List.any_map, Function.comp_def]
  congr 1
  congr 1
  funext j
  rw [show cx + (j + 1) = cx + 1 + j by omega, show k + 1 - 1 - (j + 1) = k - 1 - j by omega]

theorem bitsHit_past (b : Byte) (cy k cx : Nat) (d : Display) (h : 64 ≤ cx) : bitsHit b cy k cx d = false := by
  simp only [bitsHit, List.any_eq_false]
  intro j _
  have : ¬ cx + j < 64 := by omega
  simp [this]

/-- A row of bits reads only its own display row. -/
theorem bitsHit_congr (b : Byte) (cy k cx : Nat) (d e : Display)
    (h : ∀ qx, cx ≤ qx → qx < 64 → Display.cell d qx cy = Display.cell e qx cy) :
    bitsHit b cy k cx d = bitsHit b cy k cx e := by
  simp only [bitsHit]
  congr 1
  funext j
  by_cases hj : cx + j < 64
  · rw [h (cx + j) (by omega) hj]
  · simp [hj]

/-- What drawing the bits of a row does: each 1 bit flips its cell, VF becomes 1 if one of those cells was on, nothing else (R175, R177). -/
theorem drawBits_spec (b : Byte) (cy : Nat) (hcy : cy < 32) (k : Nat) : ∀ (cx : Nat) (s : State), cx < 64 →
    drawBits b cy k cx s = { s with disp := (drawBits b cy k cx s).disp,
                                    v := if bitsHit b cy k cx s.disp then s.v.set regF 1 else s.v } ∧
    ∀ qx qy, qx < 64 → qy < 32 →
      Display.cell (drawBits b cy k cx s).disp qx qy = (Display.cell s.disp qx qy ^^ bitsToggle b cy k cx qx qy) := by
  induction k with
  | zero => intro cx s _; simp [drawBits, bitsHit, bitsToggle]
  | succ k ih =>
    intro cx s hcx
    have first : ∀ qx qy, qx < 64 → qy < 32 →
        Display.cell (if b.getLsbD k then s.toggleCell cx cy else s).disp qx qy =
          (Display.cell s.disp qx qy ^^ (b.getLsbD k && decide (cx = qx ∧ cy = qy))) := by
      intro qx qy hqx hqy
      cases hb : b.getLsbD k
      · simp
      · simp only [if_true, toggleCell_eq, cell_toggle, Bool.true_and]
        rw [Nat.mod_eq_of_lt hcx, Nat.mod_eq_of_lt hcy, Nat.mod_eq_of_lt hqx, Nat.mod_eq_of_lt hqy]
    have regs : (if b.getLsbD k then s.toggleCell cx cy else s) =
        { s with disp := (if b.getLsbD k then s.toggleCell cx cy else s).disp,
                 v := if b.getLsbD k && Display.cell s.disp cx cy then s.v.set regF 1 else s.v } := by
      cases hb : b.getLsbD k
      · simp
      · simp [toggleCell_eq]
    rw [drawBits]
    generalize (if b.getLsbD k then s.toggleCell cx cy else s) = t at first regs
    split
    · rename_i hedge
      refine ⟨?_, ?_⟩
      · rw [bitsHit_succ, bitsHit_past b cy k (cx + 1) s.disp (by omega)]
        simpa [hcx] using regs
      · intro qx qy hqx hqy
        rw [first qx qy hqx hqy]
        congr 1
        by_cases h : cx ≤ qx
        · have : qx = cx := by omega
          subst this
          simp [bitsToggle, eq_comm, Bool.and_comm]
        · have : ¬ cx = qx := by omega
          simp [bitsToggle, h, this]
    · obtain ⟨ihs, ihc⟩ := ih (cx + 1) t (by omega)
      refine ⟨?_, ?_⟩
      · have hh : bitsHit b cy k (cx + 1) t.disp = bitsHit b cy k (cx + 1) s.disp := by
          apply bitsHit_congr
          intro qx h1 h2
          have : ¬ cx = qx := by omega
          simp [first qx cy h2 hcy, this]
        rw [ihs, hh, bitsHit_succ, regs]
        simp only [hcx, decide_true, Bool.true_and]
        cases b.getLsbD k && Display.cell s.disp cx cy <;>
          cases bitsHit b cy k (cx + 1) s.disp <;> simp
      · intro qx qy hqx hqy
        rw [ihc qx qy hqx hqy, first qx qy hqx hqy, Bool.xor_assoc]
        congr 1
        by_cases h : qx = cx
        · subst h
          simp [bitsToggle, eq_comm, Bool.and_comm]
        · have h' : ¬ cx = qx := fun e => h e.symm
          by_cases hle : cx ≤ qx
          · have : cx + 1 ≤ qx := by omega
            have e1 : k - 1 - (qx - (cx + 1)) = k - (qx - cx) := by omega
            have e2 : (qx - (cx + 1) < k) = (qx - cx < k + 1) := by simp; omega
            simp [bitsToggle, h', hle, this, e1, e2]
          · have : ¬ cx + 1 ≤ qx := by omega
            simp [bitsToggle, h', hle, this]
/-- Drawing bits, anywhere, changes the display and VF at most. -/
theorem drawBits_frame (b : Byte) (cy k : Nat) : ∀ (cx : Nat) (s : State), ∃ (d : Display) (v : Vector Byte 16),
    drawBits b cy k cx s = { s with disp := d, v := v } ∧ ∀ r : RegIx, r ≠ regF → v[r] = s.v[r] := by
  induction k with
  | zero => exact fun cx s => ⟨s.disp, s.v, rfl, fun _ _ => rfl⟩
  | succ k ih =>
    intro cx s
    have first : ∃ (d : Display) (v : Vector Byte 16),
        (if b.getLsbD k then s.toggleCell cx cy else s) = { s with disp := d, v := v } ∧
          ∀ r : RegIx, r ≠ regF → v[r] = s.v[r] := by
      split
      · rw [toggleCell_eq]
        refine ⟨_, _, rfl, fun r hr => ?_⟩
        split
        · rw [regs_set, if_neg hr]
        · rfl
      · exact ⟨s.disp, s.v, rfl, fun _ _ => rfl⟩
    obtain ⟨d, v, e, hv⟩ := first
    rw [drawBits]
    split
    · exact ⟨d, v, e, hv⟩
    · obtain ⟨d', v', e', hv'⟩ := ih (cx + 1) (if b.getLsbD k then s.toggleCell cx cy else s)
      refine ⟨d', v', e'.trans (by rw [e]), fun r hr => ?_⟩
      rw [hv' r hr, e]
      exact hv r hr

/-- A whole draw changes the display and VF at most (R175). -/
theorem drawSprite_frame (x : RegIx) (rows : Nat) : ∀ (r cy : Nat) (s : State), ∃ (d : Display) (v : Vector Byte 16),
    drawSprite x rows r cy s = { s with disp := d, v := v } ∧ ∀ q : RegIx, q ≠ regF → v[q] = s.v[q] := by
  induction rows with
  | zero => exact fun r cy s => ⟨s.disp, s.v, rfl, fun _ _ => rfl⟩
  | succ rows ih =>
    intro r cy s
    obtain ⟨d, v, e, hv⟩ := drawBits_frame (s.indexByte r) cy 8 ((s.reg x).toNat % 64) s
    obtain ⟨d', v', e', hv'⟩ := ih (r + 1) (cy + 1) (drawBits (s.indexByte r) cy 8 ((s.reg x).toNat % 64) s)
    refine ⟨d', v', e'.trans (by rw [e]), fun q hq => ?_⟩
    rw [hv' q hq, e]
    exact hv q hq

/-- The last row of a draw is drawn after the others. -/
theorem drawSprite_succ (x : RegIx) (rows : Nat) : ∀ (r cy : Nat) (s : State),
    drawSprite x (rows + 1) r cy s =
      drawBits ((drawSprite x rows r cy s).indexByte (r + rows)) (cy + rows) 8
        (((drawSprite x rows r cy s).reg x).toNat % 64) (drawSprite x rows r cy s) := by
  induction rows with
  | zero => intro r cy s; rfl
  | succ rows ih =>
    intro r cy s
    rw [drawSprite, ih]
    rw [drawSprite, show r + 1 + rows = r + (rows + 1) by omega, show cy + 1 + rows = cy + (rows + 1) by omega]

end Sys2Proof.Machine
end

