-- ==== Sys2Proof/Laws/PerInstr.lean ====
section
/-! SUPPORT. Per instruction: its encoding lies in its own row of the opcode map (30_encoding.md R73). -/

namespace Sys2Proof.Laws.EncodedInItsRow

/-- The instruction's row is a row of the map, and covers its encoding. -/
def Statement (i : Instr) : Prop := i.row ∈ opcodeMap ∧ i.row.covers (encode i) = true

/-- A row of the map whose masked word is its pattern. -/
theorem of_mask {i : Instr} (hm : i.row ∈ opcodeMap) (h : encode i &&& i.row.mask = i.row.pattern) : Statement i :=
  ⟨hm, beq_iff_eq.mpr h⟩

theorem cls : Statement .cls :=
  of_mask (by simp [Instr.row, opcodeMap, opcodeMapLow, opcodeMapHigh]) rfl

theorem ret : Statement .ret :=
  of_mask (by simp [Instr.row, opcodeMap, opcodeMapLow, opcodeMapHigh]) rfl

theorem jp (nnn : BitVec 12) : Statement (.jp nnn) :=
  of_mask (by simp [Instr.row, opcodeMap, opcodeMapLow, opcodeMapHigh]) (wordA_mask_class 0x1 nnn)

theorem call (nnn : BitVec 12) : Statement (.call nnn) :=
  of_mask (by simp [Instr.row, opcodeMap, opcodeMapLow, opcodeMapHigh]) (wordA_mask_class 0x2 nnn)

theorem seImm (x : RegIx) (kk : Byte) : Statement (.seImm x kk) :=
  of_mask (by simp [Instr.row, opcodeMap, opcodeMapLow, opcodeMapHigh]) (wordXK_mask_class 0x3 x kk)

theorem sneImm (x : RegIx) (kk : Byte) : Statement (.sneImm x kk) :=
  of_mask (by simp [Instr.row, opcodeMap, opcodeMapLow, opcodeMapHigh]) (wordXK_mask_class 0x4 x kk)

theorem seReg (x y : RegIx) : Statement (.seReg x y) :=
  of_mask (by simp [Instr.row, opcodeMap, opcodeMapLow, opcodeMapHigh]) (wordXYN_mask_class 0x5 x y 0)

theorem ldImm (x : RegIx) (kk : Byte) : Statement (.ldImm x kk) :=
  of_mask (by simp [Instr.row, opcodeMap, opcodeMapLow, opcodeMapHigh]) (wordXK_mask_class 0x6 x kk)

theorem addImm (x : RegIx) (kk : Byte) : Statement (.addImm x kk) :=
  of_mask (by simp [Instr.row, opcodeMap, opcodeMapLow, opcodeMapHigh]) (wordXK_mask_class 0x7 x kk)

theorem ldReg (x y : RegIx) : Statement (.ldReg x y) :=
  of_mask (by simp [Instr.row, opcodeMap, opcodeMapLow, opcodeMapHigh]) (wordXYN_mask_nibble 0x8 x y 0x0)

theorem orReg (x y : RegIx) : Statement (.orReg x y) :=
  of_mask (by simp [Instr.row, opcodeMap, opcodeMapLow, opcodeMapHigh]) (wordXYN_mask_nibble 0x8 x y 0x1)

theorem andReg (x y : RegIx) : Statement (.andReg x y) :=
  of_mask (by simp [Instr.row, opcodeMap, opcodeMapLow, opcodeMapHigh]) (wordXYN_mask_nibble 0x8 x y 0x2)

theorem xorReg (x y : RegIx) : Statement (.xorReg x y) :=
  of_mask (by simp [Instr.row, opcodeMap, opcodeMapLow, opcodeMapHigh]) (wordXYN_mask_nibble 0x8 x y 0x3)

theorem addReg (x y : RegIx) : Statement (.addReg x y) :=
  of_mask (by simp [Instr.row, opcodeMap, opcodeMapLow, opcodeMapHigh]) (wordXYN_mask_nibble 0x8 x y 0x4)

theorem subReg (x y : RegIx) : Statement (.subReg x y) :=
  of_mask (by simp [Instr.row, opcodeMap, opcodeMapLow, opcodeMapHigh]) (wordXYN_mask_nibble 0x8 x y 0x5)

theorem shrReg (x y : RegIx) : Statement (.shrReg x y) :=
  of_mask (by simp [Instr.row, opcodeMap, opcodeMapLow, opcodeMapHigh]) (wordXYN_mask_nibble 0x8 x y 0x6)

theorem subnReg (x y : RegIx) : Statement (.subnReg x y) :=
  of_mask (by simp [Instr.row, opcodeMap, opcodeMapLow, opcodeMapHigh]) (wordXYN_mask_nibble 0x8 x y 0x7)

theorem shlReg (x y : RegIx) : Statement (.shlReg x y) :=
  of_mask (by simp [Instr.row, opcodeMap, opcodeMapLow, opcodeMapHigh]) (wordXYN_mask_nibble 0x8 x y 0xE)

theorem sneReg (x y : RegIx) : Statement (.sneReg x y) :=
  of_mask (by simp [Instr.row, opcodeMap, opcodeMapLow, opcodeMapHigh]) (wordXYN_mask_class 0x9 x y 0)

theorem ldI (nnn : BitVec 12) : Statement (.ldI nnn) :=
  of_mask (by simp [Instr.row, opcodeMap, opcodeMapLow, opcodeMapHigh]) (wordA_mask_class 0xA nnn)

theorem jpV0 (nnn : BitVec 12) : Statement (.jpV0 nnn) :=
  of_mask (by simp [Instr.row, opcodeMap, opcodeMapLow, opcodeMapHigh]) (wordA_mask_class 0xB nnn)

theorem rnd (x : RegIx) (kk : Byte) : Statement (.rnd x kk) :=
  of_mask (by simp [Instr.row, opcodeMap, opcodeMapLow, opcodeMapHigh]) (wordXK_mask_class 0xC x kk)

theorem drw (x y : RegIx) (n : BitVec 4) : Statement (.drw x y n) :=
  of_mask (by simp [Instr.row, opcodeMap, opcodeMapLow, opcodeMapHigh]) (wordXYN_mask_class 0xD x y n)

theorem skp (x : RegIx) : Statement (.skp x) :=
  of_mask (by simp [Instr.row, opcodeMap, opcodeMapLow, opcodeMapHigh]) (wordXK_mask_byte 0xE x 0x9E)

theorem sknp (x : RegIx) : Statement (.sknp x) :=
  of_mask (by simp [Instr.row, opcodeMap, opcodeMapLow, opcodeMapHigh]) (wordXK_mask_byte 0xE x 0xA1)

theorem ldVxDt (x : RegIx) : Statement (.ldVxDt x) :=
  of_mask (by simp [Instr.row, opcodeMap, opcodeMapLow, opcodeMapHigh]) (wordXK_mask_byte 0xF x 0x07)

theorem ldVxK (x : RegIx) : Statement (.ldVxK x) :=
  of_mask (by simp [Instr.row, opcodeMap, opcodeMapLow, opcodeMapHigh]) (wordXK_mask_byte 0xF x 0x0A)

theorem ldDtVx (x : RegIx) : Statement (.ldDtVx x) :=
  of_mask (by simp [Instr.row, opcodeMap, opcodeMapLow, opcodeMapHigh]) (wordXK_mask_byte 0xF x 0x15)

theorem ldStVx (x : RegIx) : Statement (.ldStVx x) :=
  of_mask (by simp [Instr.row, opcodeMap, opcodeMapLow, opcodeMapHigh]) (wordXK_mask_byte 0xF x 0x18)

theorem addI (x : RegIx) : Statement (.addI x) :=
  of_mask (by simp [Instr.row, opcodeMap, opcodeMapLow, opcodeMapHigh]) (wordXK_mask_byte 0xF x 0x1E)

theorem ldF (x : RegIx) : Statement (.ldF x) :=
  of_mask (by simp [Instr.row, opcodeMap, opcodeMapLow, opcodeMapHigh]) (wordXK_mask_byte 0xF x 0x29)

theorem ldB (x : RegIx) : Statement (.ldB x) :=
  of_mask (by simp [Instr.row, opcodeMap, opcodeMapLow, opcodeMapHigh]) (wordXK_mask_byte 0xF x 0x33)

theorem storeRegs (x : RegIx) : Statement (.storeRegs x) :=
  of_mask (by simp [Instr.row, opcodeMap, opcodeMapLow, opcodeMapHigh]) (wordXK_mask_byte 0xF x 0x55)

theorem loadRegs (x : RegIx) : Statement (.loadRegs x) :=
  of_mask (by simp [Instr.row, opcodeMap, opcodeMapLow, opcodeMapHigh]) (wordXK_mask_byte 0xF x 0x65)

end Sys2Proof.Laws.EncodedInItsRow
end

