-- ==== Sys2Proof/Laws/Step.lean ====
section
/-! SUPPORT. Which transition of the frame controller a step is (40_fetch_execute.md R85, R87), one lemma per row. -/

namespace Sys2Proof.Machine

theorem step_idle {s : State} (h : s.phase = .idle) : step s = .next (idleStep s) := by
  unfold step controllerStep; rw [h]

theorem step_tick {s : State} (h : s.phase = .tick) : step s = .next s.endFrame := by
  unfold step controllerStep; rw [h]

theorem step_exec {s : State} (h : s.phase = .exec) : step s = execStep s := by
  unfold step controllerStep; rw [h]

theorem execStep_end {s : State} (h : s.cyc = 0) : execStep s = .next s.endExec := by
  unfold execStep; rw [if_pos h]

theorem execStep_faulted {s : State} (h : s.cyc ≠ 0) (hf : s.faultCause ≠ .noFault) : execStep s = .next s.endSlot := by
  unfold execStep; rw [if_neg h, if_neg hf]

theorem execStep_runs {s : State} (h : s.cyc ≠ 0) (hf : s.faultCause = .noFault) :
    execStep s = onNext State.endSlot (instrStep s) := by
  unfold execStep; rw [if_neg h, if_pos hf]

/-- An instruction step that fetches runs its word on the advanced state. -/
theorem instrStep_fetched {s : State} (h : s.pc.toNat + 1 ≤ 0xFFF) :
    instrStep s = execWord (wordOfBytes (Memory.read s.mem s.pc.toNat) (Memory.read s.mem (s.pc.toNat + 1))) s.advance := by
  unfold instrStep; rw [fetchWord_of_le s h]

theorem instrStep_outOfRange {s : State} (h : 0xFFF < s.pc.toNat + 1) :
    instrStep s = .next (s.raiseFault .fetchOob s.pc) := by
  unfold instrStep; rw [fetchWord_of_gt s h]

theorem execWord_known {w : Word} {i : Instr} (h : decodeWord w = some i) (s : State) : execWord w s = exec i s := by
  unfold execWord; rw [h]

theorem execWord_unknown {w : Word} (h : decodeWord w = none) (s : State) : execWord w s = .next s := by
  unfold execWord; rw [h]; rfl

/-- IDLE, command by command (R85, R240, R243, R231). -/
theorem idleStep_none {s : State} (h : s.port.commands = []) : idleStep s = s := by
  unfold idleStep; rw [h]

theorem idleStep_reset {s : State} {rest : List Command} (h : s.port.commands = .reset :: rest) :
    idleStep s = s.resetBlock rest := by
  unfold idleStep; rw [h]

theorem idleStep_load {s : State} {bytes : List Byte} {rest : List Command}
    (h : s.port.commands = .load bytes :: rest) : idleStep s = s.loadProgram bytes rest := by
  unfold idleStep; rw [h]

theorem idleStep_frame {s : State} {k : Option KeyCode} {rest : List Command}
    (h : s.port.commands = .frame k :: rest) : idleStep s = s.startFrame k rest := by
  unfold idleStep; rw [h]

theorem fitsProgramArea_iff (bytes : List Byte) : fitsProgramArea bytes = true ↔ bytes.length ≤ 3584 :=
  decide_eq_true_iff

end Sys2Proof.Machine
end

