-- ==== Sys2Proof/Tests/Slice0.lean ====
section
/-! SUPPORT. Small tests of one step each, their expected results the vectors of 95_test_vectors.md (named L1-…, L2-…) or the examples
of the rules; the smoke tests of WellFormed; and, for every statement with hypotheses, a state and operands that meet them. -/

namespace Sys2Proof.Tests

open Sys2Proof.Machine

/-! ## Helpers -/

/-- A step slot of a frame of 5, PC = `a`, the bytes stored there, everything else as after reset. -/
def slotAt (a : Word) (bytes : List Byte) : State :=
  { State.reset with phase := .exec, cyc := 5, pc := a, mem := Memory.writeBytes [] a.toNat bytes,
                     port := { State.reset.port with cyclesPerFrame := 5 } }

/-- The convention state of 95_test_vectors.md: the word `hi lo` at 0x200. -/
def start (hi lo : Byte) : State := slotAt 0x200 [hi, lo]

/-- Registers set in turn. -/
def withRegs (s : State) (l : List (RegIx × Byte)) : State := l.foldl (fun s p => s.setReg p.1 p.2) s

/-- Bytes stored at an address. -/
def withBytes (s : State) (a : Nat) (bytes : List Byte) : State := s.setMem (Memory.writeBytes s.mem a bytes)

/-- A cell turned on. -/
def withCell (s : State) (cx cy : Nat) : State := s.setDisp (Display.toggle s.disp cx cy).1

/-- What a step's next state shows, nothing where it stops. -/
def after {α : Type} (f : State → α) (s : State) : Option α :=
  match step s with
  | .next t => some (f t)
  | _ => none

/-- The linear indexes of the cells that are on, in the rows below `rows`. -/
def cellsOn (rows : Nat) (s : State) : List Nat := (List.range (rows * 64)).filter fun c => Display.cell s.disp (c % 64) (c / 64)

/-- FAULT_CAUSE's code, FAULT_PC and PC. -/
def faultOf (s : State) : BitVec 3 × Word × Word := (s.faultCause.code, s.faultPc, s.pc)

/-! ## WellFormed: the smoke tests (R74, R244) -/

theorem test_wf_unknown_words_refused :
    ([0x0000, 0x0123, 0x00E1, 0x8008, 0x800F, 0xE0FF, 0xF0FF] : List Word).all (fun w => !knownWord w) = true := by decide

theorem test_wf_known_words_pass :
    ([0x01E0, 0x00EE, 0x5121, 0x812E, 0xE19E, 0xF165] : List Word).all knownWord = true := by decide

theorem test_wf_program_too_long_refused : fitsProgramArea (List.replicate 3585 0) = false := by
  rw [fitsProgramArea, List.length_replicate]; rfl

theorem test_wf_longest_program_passes : fitsProgramArea (List.replicate 3584 0) = true := by
  rw [fitsProgramArea, List.length_replicate]; rfl

theorem test_opcode_map_has_34_distinct_rows : opcodeMap.length = 34 ∧ opcodeMap.Nodup := by decide

/-! ## Decoding: a word of every constructor, written out from its row of R73 -/

theorem test_decode_control_flow :
    [0x00EE, 0x1ABC, 0x2300, 0x3142, 0x4A42, 0x5120, 0x9CD0, 0xB7FE].map decodeWord =
      [some .ret, some (.jp 0xABC), some (.call 0x300), some (.seImm 1 0x42), some (.sneImm 10 0x42),
       some (.seReg 1 2), some (.sneReg 12 13), some (.jpV0 0x7FE)] := by decide

theorem test_decode_loads_and_random :
    [0x6A2B, 0x71FF, 0x8120, 0xC30F].map decodeWord =
      [some (.ldImm 10 0x2B), some (.addImm 1 0xFF), some (.ldReg 1 2), some (.rnd 3 0x0F)] := by decide

theorem test_decode_alu :
    [0x8121, 0x8122, 0x8123, 0x8F14, 0x81F5, 0x8126, 0x8127, 0x8E1E].map decodeWord =
      [some (.orReg 1 2), some (.andReg 1 2), some (.xorReg 1 2), some (.addReg 15 1), some (.subReg 1 15),
       some (.shrReg 1 2), some (.subnReg 1 2), some (.shlReg 14 1)] := by decide

theorem test_decode_index_and_memory :
    [0xA2F0, 0xF11E, 0xF429, 0xF033, 0xF255, 0xFF65].map decodeWord =
      [some (.ldI 0x2F0), some (.addI 1), some (.ldF 4), some (.ldB 0), some (.storeRegs 2), some (.loadRegs 15)] := by
  decide

theorem test_decode_display_keys_timers :
    [0x00E0, 0xD125, 0xE39E, 0xE2A1, 0xF507, 0xF30A, 0xF115, 0xF118].map decodeWord =
      [some .cls, some (.drw 1 2 5), some (.skp 3), some (.sknp 2), some (.ldVxDt 5), some (.ldVxK 3),
       some (.ldDtVx 1), some (.ldStVx 1)] := by decide

/-- Ignored nibbles (R68, R69) and the rejection of an unknown word and of too few bytes, by name. -/
theorem test_decode_ignored_nibbles : [0x0FE0, 0x05EE, 0x512F, 0x9121].map decodeWord =
    [some .cls, some .ret, some (.seReg 1 2), some (.sneReg 1 2)] := by decide

theorem test_decode_bytes_rejects_by_name :
    decodeBytes [0x80, 0x08] = .error (.unknownWord 0x8008) ∧ decodeBytes [0x60] = .error .truncated := ⟨rfl, rfl⟩

theorem test_encode_words :
    [Instr.cls, .call 0x300, .ldImm 10 0x2B, .shlReg 8 14, .drw 1 2 5, .skp 3, .loadRegs 15].map encode =
      [0x00E0, 0x2300, 0x6A2B, 0x88EE, 0xD125, 0xE39E, 0xFF65] := by decide

/-! ## Fetch and unknown words (L2-F) -/

theorem test_L2_F1_zero_word_is_noop : step (start 0x00 0x00) = .next { start 0x00 0x00 with pc := 0x202, cyc := 4 } := by rfl

theorem test_L2_F7_fetch_at_FFE :
    after (fun t => (t.v[0], t.pc)) (slotAt 0xFFE [0x60, 0x2A]) = some (0x2A, 0x1000) := by decide

theorem test_L2_F9_fetch_at_FFF : after faultOf (slotAt 0xFFF []) = some (1, 0xFFF, 0xFFF) := by decide

theorem test_L2_F10_odd_pc : after (fun t => (t.v[1], t.pc)) (slotAt 0x201 [0x61, 0x07]) = some (0x07, 0x203) := by decide

/-! ## Control flow (L2-B) -/

theorem test_L2_B7_return :
    after (fun t => (t.pc, t.sp)) { start 0x00 0xEE with sp := 3, stack := State.reset.stack.set 3 0x456 } =
      some (0x456, 2) := by decide

theorem test_L2_B8_return_on_empty_stack : after faultOf (start 0x00 0xEE) = some (4, 0x200, 0x200) := by decide

theorem test_L2_B1_jump : after State.pc (start 0x1A 0xBC) = some 0xABC := by decide

theorem test_L2_B5_fifteenth_call :
    after (fun t => (t.sp, t.stack[15], t.pc)) { start 0x24 0x00 with sp := 14 } = some (15, 0x202, 0x400) := by decide

theorem test_L2_B6_sixteenth_call :
    after (fun t => (faultOf t, t.sp)) { start 0x24 0x00 with sp := 15 } = some ((3, 0x200, 0x200), 15) := by decide

theorem test_L2_B9_B10_skip_if_equal :
    [0x42, 0x41].map (fun b => after State.pc (withRegs (start 0x31 0x42) [(1, b)])) = [some 0x204, some 0x202] := by
  decide

theorem test_L2_B11_B12_skip_if_not_equal :
    [0x42, 0x00].map (fun b => after State.pc (withRegs (start 0x41 0x42) [(1, b)])) = [some 0x202, some 0x204] := by
  decide

theorem test_L2_B14_B16_skip_registers_equal :
    (after State.pc (withRegs (start 0x51 0x20) [(1, 7), (2, 8)]), after State.pc (withRegs (start 0x51 0x21) [(1, 4), (2, 4)])) =
      (some 0x202, some 0x204) := by decide

theorem test_L2_B17_B18_skip_registers_differ :
    (after State.pc (withRegs (start 0x91 0x20) [(1, 7), (2, 8)]), after State.pc (withRegs (start 0x91 0x20) [(1, 7), (2, 7)])) =
      (some 0x204, some 0x202) := by decide

theorem test_L2_B20_jump_relative : after State.pc (withRegs (start 0xB0 0x02) [(0, 4)]) = some 0x208 := by decide

theorem test_L2_B22_jump_relative_largest : after State.pc (withRegs (start 0xBF 0xFF) [(0, 0xFF)]) = some 0x1300 := by decide

/-! ## ALU (L1, L2-A) -/

/-- The register `x` and VF after one step of the word with the registers set. -/
def alu (hi lo : Byte) (l : List (RegIx × Byte)) (x : RegIx) : Option (Byte × Byte) :=
  after (fun t => (t.v[x], t.v[15])) (withRegs (start hi lo) l)

theorem test_L2_A1_load : alu 0x6A 0xFF [] 10 = some (0xFF, 0) := by decide
theorem test_L1_1_add_wraps : alu 0x71 0xFF [(1, 0x01)] 1 = some (0x00, 0) := by decide
theorem test_L2_A3_add_into_VF : alu 0x7F 0x01 [(15, 0xFF)] 15 = some (0x00, 0x00) := by decide
theorem test_L2_A4_move : alu 0x81 0x20 [(1, 0x11), (2, 0x22)] 1 = some (0x22, 0) := by decide
theorem test_L2_A5_or : alu 0x81 0x21 [(1, 0x0F), (2, 0xF0)] 1 = some (0xFF, 0) := by decide
theorem test_L2_A6_and : alu 0x81 0x22 [(1, 0x3C), (2, 0x0F)] 1 = some (0x0C, 0) := by decide
theorem test_L2_A7_xor : alu 0x81 0x23 [(1, 0xFF), (2, 0x0F)] 1 = some (0xF0, 0) := by decide
theorem test_L1_2_add_carry : alu 0x81 0x24 [(1, 200), (2, 100)] 1 = some (44, 1) := by decide
theorem test_L2_A12_add_old_VF : alu 0x81 0xF4 [(1, 0xFF), (15, 0x01)] 1 = some (0x00, 1) := by decide
theorem test_L1_3_sub_borrow : alu 0x81 0x25 [(1, 5), (2, 10)] 1 = some (251, 0) := by decide
theorem test_L2_A16_sub_into_VF : alu 0x8F 0x15 [(15, 0x0A), (1, 0x03)] 15 = some (0x07, 0x07) := by decide
theorem test_L2_A17_shift_right : alu 0x81 0x26 [(1, 0x03), (2, 0x08)] 1 = some (0x04, 1) := by decide
theorem test_L2_A18_shift_right_flag_of_Vx : alu 0x81 0x26 [(1, 0x02), (2, 0x01)] 1 = some (0x00, 0) := by decide
theorem test_L2_A21_subn : alu 0x81 0x27 [(1, 0x05), (2, 0x0A)] 1 = some (0x05, 1) := by decide
theorem test_L2_A23_subn_equal : alu 0x81 0x27 [(1, 9), (2, 9)] 1 = some (0x00, 0) := by decide
theorem test_L2_A25_shift_left : alu 0x81 0x2E [(1, 0x01), (2, 0x81)] 1 = some (0x02, 0) := by decide
theorem test_L2_A28_shift_left_into_VF : alu 0x8F 0x2E [(2, 0xC0)] 15 = some (0x80, 0x80) := by decide

theorem test_L2_A29_random :
    after (fun t => (t.v[3], t.port.rand))
      { start 0xC3 0x0F with port := { (start 0xC3 0x0F).port with rand := [0xA7, 0x11] } } = some (0x07, [0x11]) := by decide

/-! ## Index register and memory (L1-4, L2-M) -/

theorem test_L2_M1_load_index : after State.i (start 0xAF 0xFF) = some 0xFFF := by decide

theorem test_L2_M4_add_index_wraps : after State.i (withRegs { start 0xF0 0x1E with i := 0xFFFF } [(0, 1)]) = some 0 := by decide

theorem test_L2_M7_font_address_whole_byte : after State.i (withRegs (start 0xF1 0x29) [(1, 0xFF)]) = some 0x4FB := by decide

theorem test_L1_4_digits :
    after (fun t => [0, 1, 2, 3].map (Memory.read t.mem)) (withRegs (start 0xF0 0x33) [(0, 234)]) =
      some [2, 3, 4, 0x90] := by decide

theorem test_L2_M12_digits_out_of_range :
    after (fun t => (faultOf t, Memory.read t.mem 0xFFE)) (withRegs { start 0xF0 0x33 with i := 0xFFE } [(0, 1)]) =
      some ((2, 0x200, 0x200), 0) := by decide

theorem test_L2_M13_store_registers :
    after (fun t => ([0x300, 0x301, 0x302, 0x303].map (Memory.read t.mem), t.i))
      (withRegs { start 0xF2 0x55 with i := 0x300 } [(0, 0x0A), (1, 0x0B), (2, 0x0C), (3, 0x0D)]) =
      some ([0x0A, 0x0B, 0x0C, 0x00], 0x300) := by decide

theorem test_L2_M16_store_out_of_range :
    after (fun t => (faultOf t, t.mem)) { start 0xFF 0x55 with i := 0xFF1 } =
      some ((2, 0x200, 0x200), [(0x200, 0xFF), (0x201, 0x55)]) := by decide

theorem test_L2_M18_load_registers_from_font :
    after (fun t => t.v.toList) (start 0xFF 0x65) =
      some [0xF0, 0x90, 0x90, 0x90, 0xF0, 0x20, 0x60, 0x20, 0x20, 0x70, 0xF0, 0x10, 0xF0, 0x80, 0xF0, 0xF0] := by decide

theorem test_L2_M19_load_out_of_range :
    after (fun t => (faultOf t, t.v[0])) (withRegs { start 0xF1 0x65 with i := 0xFFF } [(0, 9)]) =
      some ((2, 0x200, 0x200), 9) := by decide

/-- Writing a byte back to what an unlisted address reads as leaves an equal memory (log 11). -/
theorem test_memory_canonical : Memory.write (Memory.write [] 0x300 7) 0x300 0 = [] := by decide

/-! ## Display (L1-5 to L1-7, L2-D) -/

theorem test_L1_5_digit_zero :
    after (fun t => (t.v[15], [11, 12, 13, 14, 15, 16, 17].map (fun r : Fin 32 => t.disp[r]), Display.cell t.disp 7 12))
      (withRegs (start 0xD0 0x15) [(0, 7), (1, 12)]) =
      some (0, [0, 0x780, 0x480, 0x480, 0x480, 0x780, 0], true) := by decide

theorem test_L2_D9_draw_with_VF_as_column :
    after (fun t => (cellsOn 2 t, t.v[15]))
      (withCell (withRegs (withBytes { start 0xDF 0x12 with i := 0x300 } 0x300 [0x80, 0x80]) [(15, 9)]) 0 0) =
      some ([65], 1) := by decide

theorem test_L1_6_clear :
    after (fun t => (t.disp.toList.all (· == 0), t.v[15])) (withCell (withRegs (start 0x00 0xE0) [(15, 1)]) 7 12) = some (true, 1) := by decide

theorem test_L1_7_toggle_wraps :
    Display.toggle Display.clear 128 64 = (Display.clear.set 0 1, false) ∧
      Display.toggle (Display.clear.set 0 1) 128 64 = (Display.clear, true) := by decide

/-! ## Keys and timers (L1-9, L2-K) -/

theorem test_L2_K1_K4_skip_if_key :
    (after State.pc (withRegs { start 0xE3 0x9E with key := some 3 } [(3, 3)]),
     after State.pc (withRegs { start 0xE1 0x9E with key := some 3 } [(1, 0x13)])) = (some 0x204, some 0x202) := by decide

theorem test_L2_K5_K6_skip_if_not_key :
    (after State.pc (start 0xE3 0xA1), after State.pc (withRegs { start 0xE3 0xA1 with key := some 3 } [(3, 3)])) =
      (some 0x204, some 0x202) := by decide

theorem test_L1_9_key_wait_rewinds : after (fun t => (t.pc, t.v[3], t.key)) (start 0xF3 0x0A) = some (0x200, 0, none) := by decide

theorem test_L1_9_key_wait_takes_key :
    after (fun t => (t.pc, t.v[3], t.key)) { start 0xF3 0x0A with key := some 9 } = some (0x202, 9, some 9) := by decide

theorem test_L2_K8_read_delay : after (fun t => t.v[5]) { start 0xF5 0x07 with dt := 0x3C } = some 0x3C := by decide
theorem test_R194_set_delay : after State.dt (withRegs (start 0xF1 0x15) [(1, 0x3C)]) = some 0x3C := by decide
theorem test_L2_K10_set_sound : after State.st (withRegs (start 0xF5 0x18) [(5, 0x01)]) = some 0x01 := by decide

theorem test_L2_K11_K12_tick :
    [(1, 1), (0, 2)].map (fun p : Byte × Byte => after (fun t => (t.dt, t.st, t.outSound))
      { State.reset with phase := .tick, dt := p.1, st := p.2 }) = [some (0, 0, false), some (0, 1, true)] := by decide

/-! ## Reset and load (L2-R) -/

/-- A faulted core in IDLE with a command waiting. -/
def faulted (c : Command) : State :=
  { State.reset with faultCause := .memOob, faultPc := 0x2A0, pc := 0x2A0, mem := [(0x300, 1)],
                     port := { State.reset.port with commands := [c] } }

theorem test_L2_R1_reset :
    after (fun t => (faultOf t, t.mem, t.port.commands)) (faulted .reset) = some ((0, 0, 0x200), [], []) := by decide

theorem test_L2_R2_load :
    after (fun t => (faultOf t, t.mem, t.port.reply)) (faulted (.load [0x12, 0x00])) =
      some ((0, 0, 0x200), [(0x200, 0x12)], some .loadOk) := by decide

/-! ## What the host asks: a table word decodes and is the next step's instruction -/

theorem test_table_word : decodeTableWord 16 0xD125 = some (.drw 1 2 5) ∧ decodeTableWord 16 0x8008 = none := by decide

theorem test_withFetchWord_runs : after (fun t => (t.v[10], t.pc)) (State.reset.withFetchWord 16 0x6A2B) = some (0x2B, 0x202) := by
  decide

/-! ## Witnesses: for each statement with hypotheses, a state and operands that meet them -/

theorem witness_fetches : (start 0x60 0x2A).Fetches (.ldImm 0 0x2A) := ⟨⟨rfl, by decide, rfl⟩, by decide, by decide⟩

theorem witness_EncodeOfDecode : decodeWord 0x512F = some (.seReg 1 2) := by decide

theorem witness_OpcodeMapIsUnambiguous :
    (⟨0xF0FF, 0x00E0⟩ : OpcodeRow) ∈ opcodeMap ∧ (⟨0xF0FF, 0x00E0⟩ : OpcodeRow).covers 0x03E0 = true := by decide

theorem witness_StepRunsDecodedInstruction_last_address : (slotAt 0xFFE [0x60, 0x2A]).Fetches (.ldImm 0 0x2A) :=
  ⟨⟨rfl, by decide, rfl⟩, by decide, by decide⟩

theorem witness_FetchOutOfRangeFaults : (slotAt 0xFFF []).InSlot ∧ (slotAt 0xFFF []).pc.toNat + 1 > 0xFFF :=
  ⟨⟨rfl, by decide, rfl⟩, by decide⟩

theorem witness_UnknownWordOnlyAdvances : (start 0x80 0x08).InSlot ∧ (start 0x80 0x08).pc.toNat + 1 ≤ 0xFFF ∧
    decodeWord (start 0x80 0x08).wordAtPc = none := ⟨⟨rfl, by decide, rfl⟩, by decide, by decide⟩

theorem witness_SlotsPassOnAFaultedCore_faulted :
    ∃ s : State, s.phase = .exec ∧ s.cyc ≠ 0 ∧ s.faultCause ≠ .noFault :=
  ⟨{ start 0 0 with faultCause := .memOob }, by decide⟩

theorem witness_SlotsPassOnAFaultedCore_no_slot_left : ∃ s : State, s.phase = .exec ∧ s.cyc = 0 :=
  ⟨{ start 0 0 with cyc := 0 }, by decide⟩

theorem witness_IdleTakesAFrameOrHolds :
    ∃ s q : State, s.phase = .idle ∧ s.port.commands = .frame (some 7) :: [.reset] ∧ q.phase = .idle ∧ q.port.commands = [] :=
  ⟨{ State.reset with port := { State.reset.port with commands := [.frame (some 7), .reset] } }, State.reset, by decide⟩

theorem witness_TickEndsTheFrame : ∃ s : State, s.phase = .tick := ⟨{ State.reset with phase := .tick }, rfl⟩

theorem witness_WholeFrameIsFrameFunction :
    ∃ s : State, s.phase = .idle ∧ s.cyc = 0 ∧ s.port.commands = .frame none :: [] ∧ s.port.cyclesPerFrame = 0 :=
  ⟨{ State.reset with port := { State.reset.port with commands := [.frame none], cyclesPerFrame := 0 } }, by decide⟩

theorem witness_ResetCommandLeavesResetState : (faulted .reset).phase = .idle ∧ (faulted .reset).port.commands = .reset :: [] := by decide

theorem witness_LoadResetsAndCopies :
    (faulted (.load (List.replicate 3584 1))).port.commands = .load (List.replicate 3584 1) :: [] ∧
      (List.replicate 3584 (1 : Byte)).length ≤ 3584 := ⟨rfl, by rw [List.length_replicate]⟩

theorem witness_LoadTooLargeChangesNothing :
    (faulted (.load (List.replicate 3585 1))).port.commands = .load (List.replicate 3585 1) :: [] ∧
      (List.replicate 3585 (1 : Byte)).length > 3584 := ⟨rfl, by rw [List.length_replicate]; decide⟩

theorem witness_ReturnPopsOrUnderflows : ∃ s q : State, s.sp = 1 ∧ s.sp ≠ 0 ∧ q.sp = 0 :=
  ⟨{ State.reset with sp := 1 }, State.reset, by decide⟩

theorem witness_CallPushesOrOverflows : ∃ s q : State, s.sp = 14 ∧ s.sp ≠ 15 ∧ q.sp = 15 :=
  ⟨{ State.reset with sp := 14 }, { State.reset with sp := 15 }, by decide⟩

theorem witness_JumpToItselfHangs : (start 0x12 0x00).Fetches (.jp 0x200) ∧ (0x200 : BitVec 12).toNat = (start 0x12 0x00).pc.toNat :=
  ⟨⟨⟨rfl, by decide, rfl⟩, by decide, by decide⟩, by decide⟩

theorem witness_ReturnUndoesCall : ∃ s t : State, s.sp ≠ 15 ∧ exec (.call 0x300) s = .next t :=
  ⟨State.reset, _, by decide, rfl⟩

theorem witness_flag_clauses_of_ALU : (14 : RegIx) ≠ 15 ∧ (0 : RegIx) ≠ 14 ∧ (0 : RegIx) ≠ 15 := by decide

theorem witness_RandomMasksOneFreshDraw : ∃ s q : State, s.port.rand = 0xA7 :: [] ∧ q.port.rand = [] :=
  ⟨{ State.reset with port := { State.reset.port with rand := [0xA7] } }, State.reset, rfl, rfl⟩

theorem witness_DecimalDigitsAreStored : ∃ s q : State, s.i = 0xFFD ∧ s.i.toNat + 2 ≤ 0xFFF ∧ q.i = 0xFFE ∧ q.i.toNat + 2 > 0xFFF :=
  ⟨{ State.reset with i := 0xFFD }, { State.reset with i := 0xFFE }, by decide⟩

theorem witness_block_store_and_load : ∃ s q : State, s.i = 0xFF0 ∧ s.i.toNat + (15 : RegIx).val ≤ 0xFFF ∧
    q.i = 0xFF1 ∧ q.i.toNat + (15 : RegIx).val > 0xFFF :=
  ⟨{ State.reset with i := 0xFF0 }, { State.reset with i := 0xFF1 }, by decide⟩

theorem witness_StoreIsSeenByNextFetch : ∃ s t : State, exec (.storeRegs 1) s = .next t ∧ s.i.toNat + (1 : RegIx).val ≤ 0xFFF ∧
    (0 : RegIx).val + 1 = (1 : RegIx).val ∧ (1 : RegIx) ≤ 1 ∧ s.pc.toNat = s.i.toNat + (0 : RegIx).val :=
  ⟨{ State.reset with i := 0x200 }, _, rfl, by decide⟩

theorem witness_DrawXorsClippedSprite_last_row_last_byte : ∃ s : State,
    rowCount s 1 15 = 1 ∧ s.i.toNat + rowCount s 1 15 - 1 ≤ 0xFFF :=
  ⟨withRegs { State.reset with i := 0xFFF } [(1, 31)], by decide⟩

theorem witness_DrawXorsClippedSprite_no_rows : rowCount { State.reset with i := 0xFFFF } 1 0 = 0 := by decide

theorem witness_CollisionFlagOfADraw : ∃ s t : State,
    (rowCount s 15 1 = 0 ∨ s.i.toNat + rowCount s 15 1 - 1 ≤ 0xFFF) ∧ exec (.drw 15 15 1) s = .next t :=
  ⟨State.reset, _, .inr (by decide), rfl⟩

theorem witness_instruction_address : ∃ (s : State) (a : Word), s.pc = a + 2 ∧ s.sp = 0 := ⟨State.reset, 0x1FE, by decide⟩

theorem witness_DrawOutOfRangeFaults : ∃ s : State, s.pc = 0x1FE + 2 ∧ rowCount s 1 15 ≠ 0 ∧ s.i.toNat + rowCount s 1 15 - 1 > 0xFFF :=
  ⟨withRegs { State.reset with i := 0xFFF } [(1, 30)], by decide⟩

theorem witness_DrawingTwiceRestores : ∃ s t u : State, (0 : RegIx) ≠ 15 ∧ (1 : RegIx) ≠ 15 ∧
    s.i.toNat + rowCount s 1 5 - 1 ≤ 0xFFF ∧ exec (.drw 0 1 5) s = .next t ∧ exec (.drw 0 1 5) t = .next u :=
  ⟨State.reset, _, _, by decide, by decide, by decide, rfl, rfl⟩

theorem witness_SkipOnKey : ∃ s q : State, (s.key = some 0xF ∧ (0xF : KeyCode).toNat = s.v[3].toNat) ∧ q.key = none :=
  ⟨withRegs { State.reset with key := some 0xF } [(3, 15)], State.reset, by decide⟩

theorem witness_KeyWaitTakesKeyOrRewinds : ∃ s q : State, s.key = some 0xF ∧ q.key = none :=
  ⟨{ State.reset with key := some 0xF }, State.reset, by decide⟩

theorem witness_KeyWaitStepLeavesPc : (start 0xF3 0x0A).Fetches (.ldVxK 3) ∧ (start 0xF3 0x0A).key = none :=
  ⟨⟨⟨rfl, by decide, rfl⟩, by decide, by decide⟩, rfl⟩

/-- A step slot in the middle of a frame meets the invariant, and its step goes on. -/
theorem witness_EveryStepKeepsInvariant : (start 0x60 0x2A).Inv ∧ ∃ t, step (start 0x60 0x2A) = .next t :=
  ⟨⟨by decide, by decide, fun h => absurd rfl h, fun h => (by cases h), rfl, fun h => absurd rfl h, by decide, rfl,
    fun h => (by cases h), fun h => (by cases h)⟩, _, rfl⟩

theorem witness_FaultsArePrecise : ∃ s t : State, s.pc = 0x1FE + 2 ∧ s.faultCause = .noFault ∧ exec (.ldB 0) s = .next t ∧
    t.faultCause ≠ .noFault :=
  ⟨{ State.reset with i := 0xFFE }, _, by decide, rfl, rfl, by decide⟩

theorem witness_FaultIsSticky : ∃ s t : State, s.faultCause ≠ .noFault ∧ step s = .next t ∧ s.Recovers :=
  ⟨faulted .reset, _, by decide, rfl, rfl, .inl ⟨[], rfl⟩⟩

theorem witness_PcAfterAStep : ∃ t, (start 0x31 0x00).InSlot ∧ step (start 0x31 0x00) = .next t ∧ t.faultCause = .noFault :=
  ⟨_, ⟨rfl, by decide, rfl⟩, rfl, by decide⟩

theorem witness_RegistersChangeOnlyAsTabled : ∃ s t : State, exec (.ldImm 3 7) s = .next t ∧ t.v[(3 : RegIx)] ≠ s.v[(3 : RegIx)] :=
  ⟨State.reset, _, rfl, by decide⟩

theorem witness_DisplayChangesOnlyByItsUnit : ∃ s t : State, step s = .next t ∧ ¬ SameDisplay s t :=
  ⟨withCell (start 0x00 0xE0) 0 0, _, rfl, fun h => absurd (h 0 0) (by decide)⟩

theorem witness_IndexAndMemoryWriters : ∃ s t u : State, exec (.ldI 5) s = .next t ∧ t.i ≠ s.i ∧
    exec (.ldB 0) s = .next u ∧ ¬ SameMemory s u :=
  ⟨State.reset, _, _, rfl, by decide, rfl, fun h => absurd (h 0) (by decide)⟩

theorem witness_KeyAndTimersWithinAFrame : ∃ t u, step (withRegs (start 0xF1 0x15) [(1, 9)]) = .next t ∧ t.dt ≠ 0 ∧
    step (withRegs (start 0xF1 0x18) [(1, 9)]) = .next u ∧ u.st ≠ 0 ∧ (start 0xF1 0x15).phase = .exec :=
  ⟨_, _, rfl, by decide, rfl, by decide, rfl⟩

theorem witness_OneSlotAStep : ∃ t, step (start 0 0) = .next t ∧ (start 0 0).phase = .exec ∧ (start 0 0).cyc ≠ 0 :=
  ⟨_, rfl, rfl, by decide⟩

theorem witness_OutputsChangeOnlyAtFrameEnd : ∃ s t : State, step s = .next t ∧ t.outSound ≠ s.outSound :=
  ⟨{ State.reset with phase := .tick, st := 2 }, _, rfl, by decide⟩

theorem witness_OnlyRndDraws : ∃ t, step (start 0xC3 0x0F) = .next t ∧ t.port.draws ≠ (start 0xC3 0x0F).port.draws :=
  ⟨_, rfl, by decide⟩

end Sys2Proof.Tests
end

section
/-! PROOFS. What an instruction and a transition of the frame controller can do, said once; the invariant and the frames of
10_state.md follow by going through those cases. -/

namespace Sys2Proof.Machine

/-! ## What an instruction can do -/

/-- What instruction `i` can make of `s`: the completed effects, then the faults of R210. `s` is the state after the fetch advance. -/
inductive ExecEffect (s : State) : Instr → State → Prop
  /-- Registers are written, none but those of the instruction's row in R22. -/
  | regs {i : Instr} (v : Vector Byte 16) (hv : ∀ r : RegIx, v[r] ≠ s.v[r] → mayWrite i r = true) :
      ExecEffect s i (s.setRegs v)
  /-- A skip, taken or not (R100). -/
  | skip {i : Instr} (a : Word) (ha : a = s.pc ∨ a = s.pc + 2) : ExecEffect s i (s.setPc a)
  | jp (nnn : BitVec 12) : ExecEffect s (.jp nnn) (s.setPc (immAddr nnn))
  | jpV0 (nnn : BitVec 12) : ExecEffect s (.jpV0 nnn) (s.setPc (s.pc + immAddr nnn + zext16 (s.reg 0)))
  /-- The key wait goes back to itself (R193). -/
  | keyWait (x : RegIx) (hk : s.key = none) : ExecEffect s (.ldVxK x) (s.setPc (s.pc - 2))
  | call (nnn : BitVec 12) (hsp : s.sp ≠ 15) : ExecEffect s (.call nnn) (s.pushPc.setPc (immAddr nnn))
  | ret (hsp : s.sp ≠ 0) : ExecEffect s .ret s.popPc
  | rnd (x : RegIx) (kk : Byte) : ExecEffect s (.rnd x kk) (s.takeDraw.setReg x (s.port.nextDraw &&& kk))
  /-- The writers of I (R23). -/
  | index {i : Instr} (hi : (∃ nnn, i = .ldI nnn) ∨ (∃ x, i = .addI x) ∨ ∃ x, i = .ldF x) (a : Word) :
      ExecEffect s i (s.setIndex a)
  /-- The writers of memory (R47), the range checked before (R154, R155). -/
  | store {i : Instr} (hi : (∃ x, i = .ldB x) ∨ ∃ x, i = .storeRegs x) (bs : List Byte)
      (hspan : s.indexSpanExists bs.length = true) : ExecEffect s i (s.setMem (Memory.writeBytes s.mem s.i.toNat bs))
  | cls : ExecEffect s .cls (s.setDisp Display.clear)
  /-- A draw writes the display and VF at most (R175). -/
  | drw (x y : RegIx) (n : BitVec 4) (d : Display) (v : Vector Byte 16) (hv : ∀ r : RegIx, r ≠ regF → v[r] = s.v[r]) :
      ExecEffect s (.drw x y n) { s with disp := d, v := v }
  | delay (x : RegIx) : ExecEffect s (.ldDtVx x) (s.setDelay (s.reg x))
  | sound (x : RegIx) : ExecEffect s (.ldStVx x) (s.setSound (s.reg x))
  | underflow (hsp : s.sp = 0) : ExecEffect s .ret (s.raiseFault .stackUnderflow s.instrAddr)
  | overflow (nnn : BitVec 12) (hsp : s.sp = 15) : ExecEffect s (.call nnn) (s.raiseFault .stackOverflow s.instrAddr)
  | outOfRange {i : Instr}
      (hi : (∃ x y n, i = .drw x y n) ∨ (∃ x, i = .ldB x) ∨ (∃ x, i = .storeRegs x) ∨ ∃ x, i = .loadRegs x) :
      ExecEffect s i (s.raiseFault .memOob s.instrAddr)

theorem ExecEffect.setReg {s : State} {i : Instr} {x : RegIx} (hx : mayWrite i x = true) (b : Byte) :
    ExecEffect s i (s.setReg x b) := by
  refine .regs (s.v.set x b) fun r hr => ?_
  rw [regs_set] at hr
  split at hr
  · next h => exact h ▸ hx
  · exact absurd rfl hr

theorem ExecEffect.setFlagThenReg {s : State} {i : Instr} {x : RegIx} (hx : mayWrite i x = true)
    (hF : mayWrite i regF = true) (flag result : Byte) : ExecEffect s i (s.setFlagThenReg x flag result) := by
  refine .regs (s.setFlagThenReg x flag result).v fun r hr => ?_
  change (s.setFlagThenReg x flag result).reg r ≠ s.reg r at hr
  rw [reg_setFlagThenReg] at hr
  split at hr
  · next h => exact h ▸ hx
  · split at hr
    · next h => exact h ▸ hF
    · exact absurd rfl hr

theorem ExecEffect.skipIf {s : State} {i : Instr} (c : Bool) : ExecEffect s i (s.skipIf c) := by
  cases c
  · exact .skip s.pc (.inl rfl)
  · exact .skip (s.pc + 2) (.inr rfl)

/-- A guarded effect is the effect where the check passes and the fault where it fails (R211). -/
theorem ExecEffect.guardFault {s body : State} {i : Instr} {ok : Bool} {c : FaultCause}
    (hpass : ok = true → ExecEffect s i body) (hfail : ok = false → ExecEffect s i (s.raiseFault c s.instrAddr)) :
    ExecEffect s i (s.guardFault ok c body) := by
  cases ok
  · exact hfail rfl
  · exact hpass rfl

theorem ExecEffect.storeAtIndex {s : State} {i : Instr} (hi : (∃ x, i = .ldB x) ∨ ∃ x, i = .storeRegs x)
    (bs : List Byte) : ExecEffect s i (s.storeAtIndex bs) := by
  rcases storeAtIndex_cases s bs with ⟨hspan, h⟩ | ⟨-, h⟩
  · exact h ▸ .store hi bs hspan
  · exact h ▸ .outOfRange (.inr (hi.imp_right .inl))

/-- The block load writes V0..Vx and no other register (R156). -/
theorem ExecEffect.loadRegs {s : State} (x : RegIx) :
    ExecEffect s (.loadRegs x) (s.setRegs (loadRegFile s (regsUpTo x) s.v)) := by
  refine .regs _ fun r hr => ?_
  rw [loadRegFile_getElem] at hr
  split at hr
  · next h => exact decide_eq_true ((mem_regsUpTo x r).mp h)
  · exact absurd rfl hr

/-- A draw from the state with VF cleared (R175, R179). -/
theorem ExecEffect.drawSprite {s : State} (x y : RegIx) (n : BitVec 4) (rows cy : Nat) :
    ExecEffect s (.drw x y n) (drawSprite x rows 0 cy (s.setReg regF 0)) := by
  obtain ⟨d, v, h, hv⟩ := drawSprite_frame x rows 0 cy (s.setReg regF 0)
  rw [h]
  refine .drw x y n d v fun r hr => ?_
  rw [hv r hr, setReg_v, regs_set, if_neg hr]

/-- Every instruction answers a next state (log 2), and one of the effects above. -/
theorem exec_effect (i : Instr) (s : State) : ∃ t, exec i s = .next t ∧ ExecEffect s i t := by
  cases i with
  | ldImm x _ | addImm x _ | ldReg x _ | orReg x _ | andReg x _ | xorReg x _ | ldVxDt x =>
    exact ⟨_, rfl, .setReg (by simp [mayWrite]) _⟩
  | addReg x _ | subReg x _ | shrReg x _ | subnReg x _ | shlReg x _ =>
    exact ⟨_, rfl, .setFlagThenReg (by simp [mayWrite]) (by simp [mayWrite]) _ _⟩
  | seImm | sneImm | seReg | sneReg | skp | sknp => exact ⟨_, rfl, .skipIf _⟩
  | jp nnn => exact ⟨_, rfl, .jp nnn⟩
  | jpV0 nnn => exact ⟨_, rfl, .jpV0 nnn⟩
  | rnd x kk => exact ⟨_, rfl, .rnd x kk⟩
  | ldI nnn => exact ⟨_, rfl, .index (.inl ⟨nnn, rfl⟩) _⟩
  | addI x => exact ⟨_, rfl, .index (.inr (.inl ⟨x, rfl⟩)) _⟩
  | ldF x => exact ⟨_, rfl, .index (.inr (.inr ⟨x, rfl⟩)) _⟩
  | ldB x => exact ⟨_, rfl, .storeAtIndex (.inl ⟨x, rfl⟩) _⟩
  | storeRegs x => exact ⟨_, rfl, .storeAtIndex (.inr ⟨x, rfl⟩) _⟩
  | cls => exact ⟨_, rfl, .cls⟩
  | ldDtVx x => exact ⟨_, rfl, .delay x⟩
  | ldStVx x => exact ⟨_, rfl, .sound x⟩
  | ldVxK x =>
    cases hk : s.key with
    | none => exact ⟨s.setPc (s.pc - 2), by simp only [exec, execLdVxK, hk], .keyWait x hk⟩
    | some k => exact ⟨s.setReg x (k.setWidth 8), by simp only [exec, execLdVxK, hk], .setReg (by simp [mayWrite]) _⟩
  | ret =>
    exact ⟨_, rfl, .guardFault (fun hsp => .ret (bne_iff_ne.mp hsp)) fun hsp => .underflow (bne_eq_false_iff_eq.mp hsp)⟩
  | call nnn =>
    exact ⟨_, rfl, .guardFault (fun hsp => .call nnn (bne_iff_ne.mp hsp))
      fun hsp => .overflow nnn (bne_eq_false_iff_eq.mp hsp)⟩
  | loadRegs x =>
    exact ⟨_, rfl, .guardFault (fun _ => .loadRegs x) fun _ => .outOfRange (.inr (.inr (.inr ⟨x, rfl⟩)))⟩
  | drw x y n =>
    exact ⟨_, rfl, .guardFault (fun _ => .drawSprite x y n _ _) fun _ => .outOfRange (.inl ⟨x, y, n, rfl⟩)⟩

theorem ExecEffect.of_exec {i : Instr} {s t : State} (h : exec i s = .next t) : ExecEffect s i t := by
  obtain ⟨u, hu, he⟩ := exec_effect i s
  obtain rfl : u = t := Host.Outcome.next.inj (hu.symm.trans h)
  exact he

/-! ## What an instruction leaves unchanged (R22, R23, R33, R34, R47) -/

theorem ExecEffect.mayWrite_of_ne {s t : State} {i : Instr} (h : ExecEffect s i t) (r : RegIx) (hr : t.v[r] ≠ s.v[r]) :
    mayWrite i r = true := by
  cases h with
  | regs v hv => exact hv r hr
  | rnd x kk =>
    rw [setReg_v, regs_set] at hr
    split at hr
    · next hx => simp [mayWrite, hx]
    · exact absurd rfl hr
  | drw x y n d v hv =>
    have hF : r = regF := by_contra fun hne => hr (hv r hne)
    simp [mayWrite, hF]
  | _ => exact absurd rfl hr

theorem ExecEffect.writes_index {s t : State} {i : Instr} (h : ExecEffect s i t) (hne : t.i ≠ s.i) :
    (∃ nnn, i = .ldI nnn) ∨ (∃ x, i = .addI x) ∨ ∃ x, i = .ldF x := by
  cases h with
  | index hi a => exact hi
  | _ => exact absurd rfl hne

theorem ExecEffect.writes_memory {s t : State} {i : Instr} (h : ExecEffect s i t) (hne : ¬ SameMemory s t) :
    (∃ x, i = .ldB x) ∨ ∃ x, i = .storeRegs x := by
  cases h with
  | store hi bs hspan => exact hi
  | _ => exact absurd (fun _ => rfl) hne

/-- Settles O52, by the effects an instruction can have: the register writes carry their row of R22, the others leave every register. -/
theorem registersChangeOnlyAsTabled : Obligations.RegistersChangeOnlyAsTabled :=
  fun _ _ _ r h hr => (ExecEffect.of_exec h).mayWrite_of_ne r hr

/-- Settles O54, by the effects an instruction can have: one writes I, one writes memory, and each names its instructions. -/
theorem indexAndMemoryWriters : Obligations.IndexAndMemoryWriters :=
  fun _ _ _ h => ⟨(ExecEffect.of_exec h).writes_index, (ExecEffect.of_exec h).writes_memory⟩

end Sys2Proof.Machine
end

section
/-! PROOFS. Which transition of the frame controller a step is, with the instruction it runs (40_fetch_execute.md R85). -/

namespace Sys2Proof.Machine

/-- The word at PC of the claims is the word the fetch reads (R50, R87). -/
theorem wordAtPc_eq (s : State) :
    s.wordAtPc = wordOfBytes (Memory.read s.mem s.pc.toNat) (Memory.read s.mem (s.pc.toNat + 1)) := by
  apply BitVec.eq_of_toNat_eq
  rw [wordOfBytes_toNat, State.wordAtPc, BitVec.toNat_ofNat]
  have hhi := (Memory.read s.mem s.pc.toNat).isLt
  have hlo := (Memory.read s.mem (s.pc.toNat + 1)).isLt
  omega

theorem State.InSlot.phase {s : State} (h : s.InSlot) : s.phase = .exec := h.1

theorem State.InSlot.noFault {s : State} (h : s.InSlot) : s.faultCause = .noFault := h.2.2

theorem State.Fetches.inSlot {s : State} {i : Instr} (h : s.Fetches i) : s.InSlot := h.1

/-- What a step can make of `s`: the rows of R85's table, with what the command or the step slot does. -/
inductive Transition (s : State) : State → Prop
  /-- IDLE with no command (R231). -/
  | hold (hp : s.phase = .idle) (hq : s.port.commands = []) : Transition s s
  | reset (hp : s.phase = .idle) (rest : List Command) (hq : s.port.commands = .reset :: rest) :
      Transition s (s.resetBlock rest)
  /-- A load, of a program that fits or not (R243, R244). -/
  | load (hp : s.phase = .idle) (bytes : List Byte) (rest : List Command) (hq : s.port.commands = .load bytes :: rest) :
      Transition s (s.loadProgram bytes rest)
  | startFrame (hp : s.phase = .idle) (k : Option KeyCode) (rest : List Command)
      (hq : s.port.commands = .frame k :: rest) : Transition s (s.startFrame k rest)
  | endExec (hp : s.phase = .exec) (hc : s.cyc = 0) : Transition s s.endExec
  /-- A slot of a faulted core passes (R92). -/
  | passSlot (hp : s.phase = .exec) (hc : s.cyc ≠ 0) (hf : s.faultCause ≠ .noFault) : Transition s s.endSlot
  /-- The fetch is out of range (R88). -/
  | fetchFault (hs : s.InSlot) (hpc : 0xFFF < s.pc.toNat + 1) : Transition s (s.raiseFault .fetchOob s.pc).endSlot
  /-- The word is unknown (R91). -/
  | unknown (hs : s.InSlot) (hpc : s.pc.toNat + 1 ≤ 0xFFF) (hw : decodeWord s.wordAtPc = none) :
      Transition s s.advance.endSlot
  /-- An instruction runs on the advanced state (R87, R89). -/
  | run (i : Instr) (u : State) (hi : s.Fetches i) (he : ExecEffect s.advance i u) : Transition s u.endSlot
  | endFrame (hp : s.phase = .tick) : Transition s s.endFrame

theorem transition_idleStep {s : State} (hp : s.phase = .idle) : Transition s (idleStep s) := by
  rcases hq : s.port.commands with _ | ⟨_ | bytes | k, rest⟩
  · exact (idleStep_none hq).symm ▸ .hold hp hq
  · exact idleStep_reset hq ▸ .reset hp rest hq
  · exact idleStep_load hq ▸ .load hp bytes rest hq
  · exact idleStep_frame hq ▸ .startFrame hp k rest hq

theorem exists_transition_instrStep {s : State} (hs : s.InSlot) :
    ∃ u, instrStep s = .next u ∧ Transition s u.endSlot := by
  by_cases hpc : s.pc.toNat + 1 ≤ 0xFFF
  · rw [instrStep_fetched hpc, ← wordAtPc_eq]
    cases hw : decodeWord s.wordAtPc with
    | none => exact ⟨_, execWord_unknown hw _, .unknown hs hpc hw⟩
    | some i =>
      obtain ⟨u, hu, he⟩ := exec_effect i s.advance
      exact ⟨u, (execWord_known hw _).trans hu, .run i u ⟨hs, hpc, hw⟩ he⟩
  · have hgt : 0xFFF < s.pc.toNat + 1 := by omega
    exact ⟨_, instrStep_outOfRange hgt, .fetchFault hs hgt⟩

theorem exists_transition_execStep {s : State} (hp : s.phase = .exec) : ∃ t, execStep s = .next t ∧ Transition s t := by
  by_cases hc : s.cyc = 0
  · exact ⟨_, execStep_end hc, .endExec hp hc⟩
  · by_cases hf : s.faultCause = .noFault
    · obtain ⟨u, hu, ht⟩ := exists_transition_instrStep ⟨hp, hc, hf⟩
      exact ⟨u.endSlot, by rw [execStep_runs hc hf, hu]; rfl, ht⟩
    · exact ⟨_, execStep_faulted hc hf, .passSlot hp hc hf⟩

/-- Every step answers a next state (log 2), by one of the transitions above. -/
theorem exists_transition (s : State) : ∃ t, step s = .next t ∧ Transition s t := by
  cases hp : s.phase with
  | idle => exact ⟨_, step_idle hp, transition_idleStep hp⟩
  | exec => exact step_exec hp ▸ exists_transition_execStep hp
  | tick => exact ⟨_, step_tick hp, .endFrame hp⟩

theorem Transition.of_step {s t : State} (h : step s = .next t) : Transition s t := by
  obtain ⟨u, hu, ht⟩ := exists_transition s
  obtain rfl : u = t := Host.Outcome.next.inj (hu.symm.trans h)
  exact ht

theorem loadProgram_of_le (s : State) {bytes : List Byte} (h : bytes.length ≤ 3584) (rest : List Command) :
    s.loadProgram bytes rest =
      { State.reset with mem := Memory.writeBytes [] Config.programBase bytes,
                         port := { s.port with commands := rest, reply := some .loadOk } } := by
  unfold State.loadProgram; rw [if_pos ((fitsProgramArea_iff bytes).mpr h)]

theorem loadProgram_of_gt (s : State) {bytes : List Byte} (h : 3584 < bytes.length) (rest : List Command) :
    s.loadProgram bytes rest = { s with port := { s.port with commands := rest, reply := some .loadTooLarge } } := by
  unfold State.loadProgram
  rw [if_neg fun hfit => absurd ((fitsProgramArea_iff bytes).mp hfit) (by omega)]

/-! ## The reset state and the invariant (R38, R240) -/

theorem faultExplained_of_noFault {s : State} (h : s.faultCause = .noFault) : s.FaultExplained ↔ s.faultPc = 0 := by
  unfold State.FaultExplained; rw [h]

/-- The reset state meets the invariant whatever a load put into its memory and whatever the host's side holds. -/
theorem inv_reset_with {m : Memory} (hm : Memory.wf m = true) (p : HostPort) :
    ({ State.reset with mem := m, port := p } : State).Inv where
  memory := hm
  cycBounded := Nat.zero_le _
  cycSpent _ := rfl
  keyCleared _ := rfl
  explained := rfl
  halted h := absurd rfl h
  slotZero := rfl
  soundPublished := rfl
  displayPublished _ := rfl
  diagPublished _ := rfl

/-- The invariant says nothing of the host's commands, draws and reply, only of CYCLES_PER_FRAME. -/
theorem State.Inv.withPort {s : State} (h : s.Inv) {p : HostPort} (hp : p.cyclesPerFrame = s.port.cyclesPerFrame) :
    ({ s with port := p } : State).Inv :=
  { h with cycBounded := hp ▸ h.cycBounded }

/-- The longest program ends at the last address (R244), so every load that fits leaves a well-formed memory. -/
theorem wf_loadedMemory {bytes : List Byte} (h : bytes.length ≤ 3584) :
    Memory.wf (Memory.writeBytes [] Config.programBase bytes) = true :=
  wf_writeBytes bytes wf_nil (by unfold Config.programBase Config.memSize; omega)

theorem State.Inv.loadProgram {s : State} (h : s.Inv) (bytes : List Byte) (rest : List Command) :
    (s.loadProgram bytes rest).Inv := by
  rcases Nat.lt_or_ge 3584 bytes.length with hgt | hle
  · exact loadProgram_of_gt s hgt rest ▸ h.withPort rfl
  · exact loadProgram_of_le s hle rest ▸ inv_reset_with (wf_loadedMemory hle) _

/-- Settles O47: the reset state is the reset state with nothing loaded. -/
theorem resetMeetsInvariant : Obligations.ResetMeetsInvariant := inv_reset_with wf_nil State.reset.port

/-! ## The invariant over the controller's own transitions (R85) -/

theorem not_idle_of_exec {s : State} (hp : s.phase = .exec) : s.phase ≠ .idle := by simp [hp]

/-- CYC is loaded with its bound, and leaving IDLE lifts what holds between frames only. -/
theorem State.Inv.startFrame {s : State} (h : s.Inv) (k : Option KeyCode) (rest : List Command) :
    (s.startFrame k rest).Inv :=
  { h with
    cycBounded := Nat.le_refl _
    cycSpent := fun hne => absurd rfl hne
    keyCleared := fun hi => nomatch hi
    displayPublished := fun hi => nomatch hi
    diagPublished := fun hi => nomatch hi }

theorem State.Inv.endExec {s : State} (h : s.Inv) (hc : s.cyc = 0) : s.endExec.Inv :=
  { h with
    cycSpent := fun _ => hc
    keyCleared := fun hi => nomatch hi
    displayPublished := fun hi => nomatch hi
    diagPublished := fun hi => nomatch hi }

theorem State.Inv.endSlot {s : State} (h : s.Inv) : s.endSlot.Inv :=
  { h with
    cycBounded := (Nat.sub_le _ _).trans h.cycBounded
    cycSpent := fun hne => by rw [endSlot_cyc, h.cycSpent hne] }

/-- The end of a frame publishes what the clauses on IDLE compare with. -/
theorem State.Inv.endFrame {s : State} (h : s.Inv) (hp : s.phase = .tick) : s.endFrame.Inv :=
  { h with
    cycSpent := fun _ => h.cycSpent (by simp [hp])
    keyCleared := fun _ => rfl
    soundPublished := rfl
    displayPublished := fun _ => rfl
    diagPublished := fun _ => rfl }

/-! ## The invariant over a step slot -/

/-- The frame controller's registers, the key, the published outputs and the host's side but for its draws are those of `s`. -/
structure SameController (s t : State) : Prop where
  phase : t.phase = s.phase
  cyc : t.cyc = s.cyc
  key : t.key = s.key
  outDisp : t.outDisp = s.outDisp
  outSound : t.outSound = s.outSound
  outDiag : t.outDiag = s.outDiag
  cyclesPerFrame : t.port.cyclesPerFrame = s.port.cyclesPerFrame
  commands : t.port.commands = s.port.commands
  reply : t.port.reply = s.port.reply

/-- No instruction touches the frame controller, the key or the outputs (R33, R34, R251). -/
theorem ExecEffect.sameController {s t : State} {i : Instr} (h : ExecEffect s i t) : SameController s t := by
  cases h <;> exact ⟨rfl, rfl, rfl, rfl, rfl, rfl, rfl, rfl, rfl⟩

/-- An instruction leaves no fault recorded, or the fault state at its own address with a cause that explains it (R210, R211). -/
theorem ExecEffect.explained_and_halted {s t : State} {i : Instr} (h : ExecEffect s i t) (hf : s.faultCause = .noFault)
    (hpc : s.faultPc = 0) : t.FaultExplained ∧ (t.faultCause ≠ .noFault → t.pc = t.faultPc) := by
  cases h with
  | underflow hsp => exact ⟨hsp, fun _ => rfl⟩
  | overflow nnn hsp => exact ⟨hsp, fun _ => rfl⟩
  | outOfRange hi => exact ⟨trivial, fun _ => rfl⟩
  | _ => exact ⟨Iff.mpr (faultExplained_of_noFault hf) hpc, fun hne => absurd hf hne⟩

/-- A store through I has had its range checked, so it lists no address that does not exist (R48). -/
theorem ExecEffect.wf_mem {s t : State} {i : Instr} (h : ExecEffect s i t) (hm : Memory.wf s.mem = true) :
    Memory.wf t.mem = true := by
  cases h with
  | store hi bs hspan =>
    rcases (spanExists_iff s.i.toNat bs.length).mp hspan with hnil | hlast
    · rw [List.eq_nil_of_length_eq_zero hnil]
      exact hm
    · refine wf_writeBytes bs hm ?_
      unfold Config.memSize
      omega
  | _ => exact hm

/-- A call writes the slot above SP, and SP + 1 is 0 only at SP = 15, where the call faults (R26, R103). -/
theorem ExecEffect.slotZero {s t : State} {i : Instr} (h : ExecEffect s i t) : t.stack[0] = s.stack[0] := by
  cases h with
  | call nnn hsp =>
    have hne : (s.sp + 1 : Fin 16).val ≠ 0 := by revert hsp; generalize s.sp = k; revert k; decide
    exact Vector.getElem_set_ne (Fin.is_lt _) (by decide) hne
  | _ => rfl

/-- While a frame runs, the clauses on IDLE hold of any state with the same controller. -/
theorem State.Inv.of_sameController {s t : State} (h : s.Inv) (hp : s.phase = .exec) (hc : SameController s t)
    (hm : Memory.wf t.mem = true) (hf : t.FaultExplained ∧ (t.faultCause ≠ .noFault → t.pc = t.faultPc))
    (h0 : t.stack[0] = s.stack[0]) : t.Inv where
  memory := hm
  cycBounded := by rw [hc.cyc, hc.cyclesPerFrame]; exact h.cycBounded
  cycSpent hne := absurd (hc.phase.trans hp) hne
  keyCleared hi := absurd hi (not_idle_of_exec (hc.phase.trans hp))
  explained := hf.1
  halted := hf.2
  slotZero := h0.trans h.slotZero
  soundPublished := by rw [hc.outSound, hc.outDiag]; exact h.soundPublished
  displayPublished hi := absurd hi (not_idle_of_exec (hc.phase.trans hp))
  diagPublished hi := absurd hi (not_idle_of_exec (hc.phase.trans hp))

/-- The fetch advance moves PC only, which the invariant fixes in IDLE and after a fault. -/
theorem State.Inv.advance {s : State} (h : s.Inv) (hs : s.InSlot) : s.advance.Inv :=
  { h with
    halted := fun hne => absurd hs.noFault hne
    diagPublished := fun hi => absurd hi (not_idle_of_exec hs.phase) }

theorem State.Inv.fetchFault {s : State} (h : s.Inv) (hs : s.InSlot) (hpc : 0xFFF < s.pc.toNat + 1) :
    (s.raiseFault .fetchOob s.pc).Inv :=
  { h with
    explained := hpc
    halted := fun _ => rfl
    diagPublished := fun hi => absurd hi (not_idle_of_exec hs.phase) }

theorem State.Inv.of_execEffect {s t : State} {i : Instr} (h : s.Inv) (hs : s.InSlot) (he : ExecEffect s i t) : t.Inv :=
  h.of_sameController hs.phase he.sameController (he.wf_mem h.memory)
    (he.explained_and_halted hs.noFault ((faultExplained_of_noFault hs.noFault).mp h.explained)) he.slotZero

theorem Transition.inv {s t : State} (ht : Transition s t) (h : s.Inv) : t.Inv := by
  cases ht with
  | hold => exact h
  | reset _ rest => exact inv_reset_with wf_nil _
  | load _ bytes rest => exact h.loadProgram bytes rest
  | startFrame _ k rest => exact h.startFrame k rest
  | endExec _ hc => exact h.endExec hc
  | passSlot => exact h.endSlot
  | fetchFault hs hpc => exact (h.fetchFault hs hpc).endSlot
  | unknown hs => exact (h.advance hs).endSlot
  | run i u hi he => exact ((h.advance hi.inSlot).of_execEffect hi.inSlot he).endSlot
  | endFrame hp => exact h.endFrame hp

/-- Settles O46, transition by transition. -/
theorem everyStepKeepsInvariant : Obligations.EveryStepKeepsInvariant :=
  fun _ _ h ht => (Transition.of_step ht).inv h

end Sys2Proof.Machine
end

section
/-! PROOFS. The state a reset command leaves (10_state.md R38, 70_reset_and_hazards.md R240). -/

namespace Sys2Proof.Machine

/-- FONT fills 0x000..0x04F (R241): an address below 80 has its byte in the table. -/
theorem resetByte_font {a : Nat} (h : a < 80) : some (Memory.resetByte a) = Config.font[a]? := by
  have hlen : Config.font.length = 80 := rfl
  rw [Memory.resetByte, List.getD_eq_getElem?_getD, List.getElem?_eq_getElem (hlen ▸ h), Option.getD_some]

/-- Above FONT the reset contents are 0 (R38). -/
theorem resetByte_above_font {a : Nat} (h : 80 ≤ a) : Memory.resetByte a = 0 := List.getD_eq_default _ _ h

/-- The display of the reset state is the cleared one (R38, R172). -/
theorem cell_reset (cx cy : Nat) : Display.cell State.reset.disp cx cy = false := cell_clear cx cy

theorem reset_regs_and_stack (r : Fin 16) : State.reset.v[r] = 0 ∧ State.reset.stack[r] = 0 := by
  simp [State.reset]

theorem step_reset {s : State} {rest : List Command} (hp : s.phase = .idle) (hq : s.port.commands = .reset :: rest) :
    step s = .next (s.resetBlock rest) := by
  rw [step_idle hp, idleStep_reset hq]

/-- Settles O14: the step is `State.resetBlock`, whose fields are those of `State.reset`. -/
theorem resetCommandLeavesResetState : Obligations.ResetCommandLeavesResetState := by
  intro s rest hp hq
  refine ⟨s.resetBlock rest, step_reset hp hq, reset_regs_and_stack, rfl, rfl, rfl, rfl, rfl, cell_reset, rfl, rfl, rfl,
    rfl, rfl, cell_reset, rfl, rfl, ?_, ?_, rfl, rfl⟩
  · exact fun _ => resetByte_font
  · exact fun _ => resetByte_above_font

end Sys2Proof.Machine
end

section
/-! PROOFS. No instruction reads or writes the controller's registers, the outputs, or the host's commands and reply (10_state.md R33,
R34): putting other values there commutes with every operation an instruction is made of. -/

namespace Sys2Proof.Machine

/-- The pieces of state no instruction knows of. -/
structure Hidden where
  phase : Phase
  cyc : Nat
  outDisp : Display
  outSound : Bool
  outDiag : Diag
  commands : List Command
  reply : Option Reply

/-- `s` with other values there. -/
def State.hide (h : Hidden) (s : State) : State :=
  { s with phase := h.phase, cyc := h.cyc, outDisp := h.outDisp, outSound := h.outSound, outDiag := h.outDiag,
           port := { s.port with commands := h.commands, reply := h.reply } }

section

variable (h : Hidden) (s : State)

theorem hide_guardFault {ok : Bool} {c : FaultCause} {body body' : State} (hbody : body' = body.hide h) :
    (s.hide h).guardFault ok c body' = (s.guardFault ok c body).hide h := by
  subst hbody
  cases ok <;> rfl

theorem hide_skipIf (c : Bool) : (s.hide h).skipIf c = (s.skipIf c).hide h := by
  cases c <;> rfl

theorem hide_storeAtIndex (bs : List Byte) : (s.hide h).storeAtIndex bs = (s.storeAtIndex bs).hide h :=
  hide_guardFault h s rfl

theorem hide_toggleCell (cx cy : Nat) : (s.hide h).toggleCell cx cy = (s.toggleCell cx cy).hide h := by
  rw [toggleCell_eq, toggleCell_eq]; rfl

theorem hide_drawBits (b : Byte) (cy k : Nat) : ∀ (cx : Nat) (s : State),
    drawBits b cy k cx (s.hide h) = (drawBits b cy k cx s).hide h := by
  induction k with
  | zero => exact fun _ _ => rfl
  | succ k ih =>
    intro cx s
    have hbit : (if b.getLsbD k then (s.hide h).toggleCell cx cy else s.hide h) =
        (if b.getLsbD k then s.toggleCell cx cy else s).hide h := by
      rw [hide_toggleCell, apply_ite (State.hide h)]
    rw [drawBits, drawBits, hbit, ih]
    exact (apply_ite (State.hide h) _ _ _).symm

theorem hide_drawSprite (x : RegIx) (rows : Nat) : ∀ (r cy : Nat) (s : State),
    drawSprite x rows r cy (s.hide h) = (drawSprite x rows r cy s).hide h := by
  induction rows with
  | zero => exact fun _ _ _ => rfl
  | succ rows ih =>
    intro r cy s
    rw [drawSprite, drawSprite, ← ih, ← hide_drawBits]
    rfl

theorem hide_loadRegFile (rs : List RegIx) : ∀ v : Vector Byte 16, loadRegFile (s.hide h) rs v = loadRegFile s rs v := by
  induction rs with
  | nil => exact fun _ => rfl
  | cons r rs ih => exact fun v => ih (v.set r (s.indexByte r.val))

/-- Running an instruction commutes with putting other values in the hidden state. -/
theorem exec_hide (i : Instr) : exec i (s.hide h) = onNext (State.hide h) (exec i s) := by
  cases i with
  | seImm | sneImm | seReg | sneReg | skp | sknp => exact congrArg Host.Outcome.next (hide_skipIf h s _)
  | ret | call => exact congrArg Host.Outcome.next (hide_guardFault h s rfl)
  | ldB | storeRegs => exact congrArg Host.Outcome.next (hide_storeAtIndex h s _)
  | loadRegs x =>
    have hload := congrArg (s.hide h).setRegs (hide_loadRegFile h s (regsUpTo x) s.v)
    exact congrArg Host.Outcome.next (hide_guardFault h s hload)
  | drw x y n => exact congrArg Host.Outcome.next (hide_guardFault h s (hide_drawSprite h x _ 0 _ (s.setReg regF 0)))
  | ldVxK x =>
    have hkey : (s.hide h).key = s.key := rfl
    cases hk : s.key <;> simp only [exec, execLdVxK, hkey, hk] <;> rfl
  | _ => rfl

end

/-- Settles O58: `State.hide` is the change of state the statement speaks of. -/
theorem hiddenStateIsNotRead : Obligations.HiddenStateIsNotRead :=
  fun i s p n d b g cs r => exec_hide ⟨p, n, d, b, g, cs, r⟩ s i

end Sys2Proof.Machine
end

section
/-! PROOFS. Memory seen by the fetch (20_memory.md R49, R50, R57): the bytes a block store leaves and the word at PC. -/

namespace Sys2Proof.Machine

/-! ## The fetch -/

/-- The fetch of R88 reads the word at PC of the claims. -/
theorem fetchWord_eq_wordAtPc {s : State} (h : s.pc.toNat + 1 ≤ 0xFFF) : s.fetchWord = some s.wordAtPc := by
  rw [fetchWord_of_le s h, ← wordAtPc_eq]

/-- In a step slot the step is the instruction step, and the slot is used (R85, R87). -/
theorem step_inSlot {s : State} (hs : s.InSlot) : step s = onNext State.endSlot (instrStep s) := by
  obtain ⟨hp, hc, hf⟩ := hs
  rw [step_exec hp, execStep_runs hc hf]

theorem faultState_raiseFault (s : State) (c : FaultCause) (a : Word) : FaultState s c a (s.raiseFault c a) :=
  ⟨rfl, fun _ => rfl, fun _ _ => rfl⟩

/-- Settles O8: the instruction step raises the fault and runs nothing. -/
theorem fetchOutOfRangeFaults : Obligations.FetchOutOfRangeFaults := by
  intro s hs hpc
  refine ⟨s.raiseFault .fetchOob s.pc, ?_, faultState_raiseFault s .fetchOob s.pc⟩
  rw [step_inSlot hs, instrStep_outOfRange hpc]
  rfl

/-! ## The block store -/

/-- A block store whose last byte exists completes (R155). -/
theorem exec_storeRegs_of_le {x : RegIx} {s : State} (h : s.i.toNat + x.val ≤ 0xFFF) :
    exec (.storeRegs x) s = .next (s.setMem (Memory.writeBytes s.mem s.i.toNat ((regsUpTo x).map s.reg))) := by
  have hspan : s.indexSpanExists ((regsUpTo x).map s.reg).length = true := by
    rw [List.length_map, regsUpTo_length]
    exact (spanExists_iff _ _).mpr (.inr h)
  exact congrArg Host.Outcome.next (guardFault_of_pass s hspan _ _)

/-- The registers V0..Vx stored from `a` stand there in order, Vr at `a + r` (R52, R155). -/
theorem read_storedRegs (s : State) (m : Memory) (a : Nat) {x r : RegIx} (h : r ≤ x) :
    Memory.read (Memory.writeBytes m a ((regsUpTo x).map s.reg)) (a + r.val) = s.reg r := by
  have hlt : r.val < ((regsUpTo x).map s.reg).length := by
    rw [List.length_map, regsUpTo_length]
    exact Nat.lt_succ_of_le h
  have hget : ((regsUpTo x).map s.reg)[r.val]? = some (s.reg r) := by
    rw [List.getElem?_map, regsUpTo_getElem? x r.val h, Option.map_some]
  simp only [read_writeBytes, Nat.le_add_right, Nat.add_sub_cancel_left, hlt, and_self, dite_true]
  exact (List.getElem_eq_iff hlt).mpr hget

/-- Settles O35: PC and PC + 1 are the addresses of two stored registers, so the word the next fetch reads is made of them. -/
theorem storeIsSeenByNextFetch : Obligations.StoreIsSeenByNextFetch := by
  intro x r q s t hexec hx hrq hqx hpc
  obtain rfl := Host.Outcome.next.inj ((exec_storeRegs_of_le hx).symm.trans hexec)
  have hq : q.val ≤ x.val := hqx
  have hrx : r ≤ x := Fin.le_def.mpr (by omega)
  have hpc1 : s.pc.toNat + 1 = s.i.toNat + q.val := by omega
  rw [fetchWord_eq_wordAtPc (by rw [setMem_pc]; omega), State.wordAtPc, setMem_pc, setMem_mem, hpc1, hpc,
    read_storedRegs s s.mem _ hrx, read_storedRegs s s.mem _ hqx]
  rfl

end Sys2Proof.Machine
end

section
/-! PROOFS. The decoder and the encoder are inverse to each other (30_encoding.md R66 to R73): a word is put together from its
fields, the decoder dispatches on fields, and an encoding's fields are the operands. -/

namespace Sys2Proof

/-! ## The fields of an encoder's word, one equation each (R66, R67) -/

@[simp] theorem fieldC_wordA (c : BitVec 4) (nnn : BitVec 12) : fieldC (wordA c nnn) = c := (fields_wordA c nnn).1

@[simp] theorem fieldNnn_wordA (c : BitVec 4) (nnn : BitVec 12) : fieldNnn (wordA c nnn) = nnn := (fields_wordA c nnn).2

@[simp] theorem fieldC_wordXK (c : BitVec 4) (x : RegIx) (kk : Byte) : fieldC (wordXK c x kk) = c :=
  (fields_wordXK c x kk).1

@[simp] theorem fieldX_wordXK (c : BitVec 4) (x : RegIx) (kk : Byte) : fieldX (wordXK c x kk) = x :=
  (fields_wordXK c x kk).2.1

@[simp] theorem fieldKk_wordXK (c : BitVec 4) (x : RegIx) (kk : Byte) : fieldKk (wordXK c x kk) = kk :=
  (fields_wordXK c x kk).2.2

@[simp] theorem fieldC_wordXYN (c : BitVec 4) (x y : RegIx) (n : BitVec 4) : fieldC (wordXYN c x y n) = c :=
  (fields_wordXYN c x y n).1

@[simp] theorem fieldX_wordXYN (c : BitVec 4) (x y : RegIx) (n : BitVec 4) : fieldX (wordXYN c x y n) = x :=
  (fields_wordXYN c x y n).2.1

@[simp] theorem fieldY_wordXYN (c : BitVec 4) (x y : RegIx) (n : BitVec 4) : fieldY (wordXYN c x y n) = y :=
  (fields_wordXYN c x y n).2.2.1

@[simp] theorem fieldN_wordXYN (c : BitVec 4) (x y : RegIx) (n : BitVec 4) : fieldN (wordXYN c x y n) = n :=
  (fields_wordXYN c x y n).2.2.2

/-- Settles O2, format by format: the class of an encoding picks its arm of the decoder, the selector its instruction. -/
theorem decodeOfEncode : Obligations.DecodeOfEncode := by
  intro i
  cases i with
  | cls | ret => rfl
  | jp | call | ldI | jpV0 =>
    simp only [encode, decodeWord, fieldC_wordA, fieldNnn_wordA]
    rfl
  | seImm | sneImm | ldImm | addImm | rnd =>
    simp only [encode, decodeWord, fieldC_wordXK, fieldX_wordXK, fieldKk_wordXK]
    rfl
  | seReg | sneReg | drw =>
    simp only [encode, decodeWord, fieldC_wordXYN, fieldX_wordXYN, fieldY_wordXYN, fieldN_wordXYN]
    rfl
  | ldReg | orReg | andReg | xorReg | addReg | subReg | shrReg | subnReg | shlReg =>
    simp only [encode, decodeWord, decodeClass8, fieldC_wordXYN, fieldX_wordXYN, fieldY_wordXYN, fieldN_wordXYN]
    rfl
  | skp | sknp =>
    simp only [encode, decodeWord, decodeClassE, fieldC_wordXK, fieldX_wordXK, fieldKk_wordXK]
    rfl
  | ldVxDt | ldVxK | ldDtVx | ldStVx | addI | ldF | ldB | storeRegs | loadRegs =>
    simp only [encode, decodeWord, decodeClassF, fieldC_wordXK, fieldX_wordXK, fieldKk_wordXK]
    rfl

/-! ## A word put together from its fields -/

theorem wordA_fields (w : Word) : wordA (fieldC w) (fieldNnn w) = w := by
  apply BitVec.eq_of_toNat_eq
  rw [wordA_toNat, fieldC_toNat, fieldNnn_toNat]
  omega

theorem wordXK_fields (w : Word) : wordXK (fieldC w) (fieldX w) (fieldKk w) = w := by
  apply BitVec.eq_of_toNat_eq
  rw [wordXK_toNat, fieldC_toNat, fieldX_val, fieldKk_toNat]
  omega

theorem wordXYN_fields (w : Word) : wordXYN (fieldC w) (fieldX w) (fieldY w) (fieldN w) = w := by
  apply BitVec.eq_of_toNat_eq
  rw [wordXYN_toNat, fieldC_toNat, fieldX_val, fieldY_val, fieldN_toNat]
  omega

/-! ## The bits of a word the decoder reads (R68, R69) -/

/-- The mask of 5xyN and 9xyN (R68). -/
theorem wordXYN_mask_operands (c : BitVec 4) (x y : RegIx) (n : BitVec 4) :
    wordXYN c x y n &&& 0xFFF0 = wordXYN c x y 0 := by
  have h := wordA_and c 0xF (regBits x ++ (regBits y ++ n)) ((0xF : BitVec 4) ++ ((0xF : BitVec 4) ++ (0 : BitVec 4)))
  rw [BitVec.and_append, BitVec.and_append, nibble_and_F, nibble_and_F, nibble_and_F, and_zero_bits] at h
  exact h

theorem and_allBits (w : Word) : w &&& 0xFFFF = w := BitVec.and_allOnes

/-- Where the class and the operand `nnn` are all of the encoding, the decoder reads the whole word. -/
theorem wordA_eq_allBits {w : Word} {c : BitVec 4} (hc : fieldC w = c) : wordA c (fieldNnn w) = w &&& 0xFFFF := by
  rw [← hc, wordA_fields, and_allBits]

theorem wordXK_eq_allBits {w : Word} {c : BitVec 4} {kk : Byte} (hc : fieldC w = c) (hkk : fieldKk w = kk) :
    wordXK c (fieldX w) kk = w &&& 0xFFFF := by
  rw [← hc, ← hkk, wordXK_fields, and_allBits]

theorem wordXYN_eq_allBits {w : Word} {c n : BitVec 4} (hc : fieldC w = c) (hn : fieldN w = n) :
    wordXYN c (fieldX w) (fieldY w) n = w &&& 0xFFFF := by
  rw [← hc, ← hn, wordXYN_fields, and_allBits]

theorem wordXYN_eq_operandBits {w : Word} {c : BitVec 4} (hc : fieldC w = c) :
    wordXYN c (fieldX w) (fieldY w) 0 = w &&& 0xFFF0 := by
  rw [← hc, ← wordXYN_mask_operands, wordXYN_fields]

theorem wordXK_eq_byteBits {w : Word} {c : BitVec 4} {kk : Byte} (hc : fieldC w = c) (hkk : fieldKk w = kk) :
    wordXK c 0 kk = w &&& 0xF0FF := by
  rw [← hc, ← hkk, ← wordXK_mask_byte, wordXK_fields]

/-! ## Encoding what the decoder read, class by class -/

theorem encode_of_decodeClass0 {w : Word} {i : Instr} (hc : fieldC w = 0x0) (h : decodeClass0 w = some i) :
    encode i = w &&& i.usedBits := by
  unfold decodeClass0 at h
  split at h <;> cases h <;> exact wordXK_eq_byteBits hc ‹fieldKk w = _›

theorem encode_of_decodeClass8 {w : Word} {i : Instr} (hc : fieldC w = 0x8) (h : decodeClass8 w = some i) :
    encode i = w &&& i.usedBits := by
  unfold decodeClass8 at h
  split at h <;> cases h <;> exact wordXYN_eq_allBits hc ‹fieldN w = _›

theorem encode_of_decodeClassE {w : Word} {i : Instr} (hc : fieldC w = 0xE) (h : decodeClassE w = some i) :
    encode i = w &&& i.usedBits := by
  unfold decodeClassE at h
  split at h <;> cases h <;> exact wordXK_eq_allBits hc ‹fieldKk w = _›

theorem encode_of_decodeClassF {w : Word} {i : Instr} (hc : fieldC w = 0xF) (h : decodeClassF w = some i) :
    encode i = w &&& i.usedBits := by
  unfold decodeClassF at h
  split at h <;> cases h <;> exact wordXK_eq_allBits hc ‹fieldKk w = _›

/-- The last arm of the decoder's dispatch is class F. -/
theorem eq_F_of_ne (c : BitVec 4) : c ≠ 0x0 → c ≠ 0x1 → c ≠ 0x2 → c ≠ 0x3 → c ≠ 0x4 → c ≠ 0x5 → c ≠ 0x6 → c ≠ 0x7 →
    c ≠ 0x8 → c ≠ 0x9 → c ≠ 0xA → c ≠ 0xB → c ≠ 0xC → c ≠ 0xD → c ≠ 0xE → c = 0xF := by
  bv_omega

/-- Settles O3, arm by arm of the dispatch on the class. -/
theorem encodeOfDecode : Obligations.EncodeOfDecode := by
  intro w i h
  unfold decodeWord at h
  split at h
  case h_1 hc => exact encode_of_decodeClass0 hc h
  case h_9 hc => exact encode_of_decodeClass8 hc h
  case h_15 hc => exact encode_of_decodeClassE hc h
  case h_16 => exact encode_of_decodeClassF (by apply eq_F_of_ne <;> assumption) h
  all_goals obtain rfl := Option.some.inj h
  case h_2 hc | h_3 hc | h_11 hc | h_12 hc => exact wordA_eq_allBits hc
  case h_4 hc | h_5 hc | h_7 hc | h_8 hc | h_13 hc => exact wordXK_eq_allBits hc rfl
  case h_6 hc | h_10 hc => exact wordXYN_eq_operandBits hc
  case h_14 hc => exact wordXYN_eq_allBits hc rfl

end Sys2Proof
end

section
/-! PROOFS. Which words are unknown (30_encoding.md R74), and that the rows of the opcode map (R73) are the same words as the
decoder's arms; words and bytes written out. -/

namespace Sys2Proof

/-! ## The words the decoder refuses, by its own fields -/

theorem decodeClass0_eq_none_iff (w : Word) : decodeClass0 w = none ↔ fieldKk w ∉ [0xE0, 0xEE] := by
  unfold decodeClass0
  split <;> simp_all

theorem decodeClass8_eq_none_iff (w : Word) :
    decodeClass8 w = none ↔ fieldN w ∉ [0x0, 0x1, 0x2, 0x3, 0x4, 0x5, 0x6, 0x7, 0xE] := by
  unfold decodeClass8
  split <;> simp_all

theorem decodeClassE_eq_none_iff (w : Word) : decodeClassE w = none ↔ fieldKk w ∉ [0x9E, 0xA1] := by
  unfold decodeClassE
  split <;> simp_all

theorem decodeClassF_eq_none_iff (w : Word) :
    decodeClassF w = none ↔ fieldKk w ∉ [0x07, 0x0A, 0x15, 0x18, 0x1E, 0x29, 0x33, 0x55, 0x65] := by
  unfold decodeClassF
  split <;> simp_all

/-- A word is unknown when its class has a selector and refuses it (R74). -/
theorem decodeWord_eq_none_iff (w : Word) : decodeWord w = none ↔
    (fieldC w = 0x0 ∧ decodeClass0 w = none) ∨ (fieldC w = 0x8 ∧ decodeClass8 w = none) ∨
    (fieldC w = 0xE ∧ decodeClassE w = none) ∨ (fieldC w = 0xF ∧ decodeClassF w = none) := by
  unfold decodeWord
  split
  case h_16 =>
    have hc : fieldC w = 0xF := by apply eq_F_of_ne <;> assumption
    simp [hc]
  all_goals simp [‹fieldC w = _›]

/-! ## The unknown words as numbers -/

theorem fieldKk_mem_iff (w : Word) (l : List Byte) : fieldKk w ∈ l ↔ w.toNat % 256 ∈ l.map BitVec.toNat := by
  rw [← fieldKk_toNat, List.mem_map_of_injective (fun _ _ => BitVec.eq_of_toNat_eq)]

theorem fieldC_eq_iff (w : Word) (c : BitVec 4) : fieldC w = c ↔ w.toNat / 4096 = c.toNat := by
  rw [← BitVec.toNat_inj, fieldC_toNat]

/-- The nibbles that select no row of class 8 (R70). -/
theorem nibble_notMem_iff (n : BitVec 4) : n ∉ [0x0, 0x1, 0x2, 0x3, 0x4, 0x5, 0x6, 0x7, 0xE] ↔
    n.toNat ∈ [0x8, 0x9, 0xA, 0xB, 0xC, 0xD, 0xF] := by
  revert n; decide

/-- Settles O5: the fields of the dispatch as numbers. -/
theorem unknownWordsByClass : Obligations.UnknownWordsByClass := by
  intro w
  rw [decodeWord_eq_none_iff, decodeClass0_eq_none_iff, decodeClass8_eq_none_iff, decodeClassE_eq_none_iff,
    decodeClassF_eq_none_iff, nibble_notMem_iff, fieldN_toNat]
  simp only [fieldC_eq_iff, fieldKk_mem_iff]
  rfl

/-! ## A row covers the words of its instructions (R73) -/

theorem OpcodeRow.covers_iff (r : OpcodeRow) (w : Word) : r.covers w = true ↔ w &&& r.mask = r.pattern := beq_iff_eq

/-- Two rows of the map differ in a bit that both masks keep. -/
theorem opcodeMap_rows_differ : opcodeMap.Pairwise fun r q => r.pattern &&& q.mask ≠ q.pattern &&& r.mask := by
  decide

theorem row_eq_of_covers {w : Word} {r q : OpcodeRow} (hr : r ∈ opcodeMap) (hq : q ∈ opcodeMap)
    (hrw : r.covers w = true) (hqw : q.covers w = true) : r = q := by
  rw [OpcodeRow.covers_iff] at hrw hqw
  have hsame : r.pattern &&& q.mask = q.pattern &&& r.mask := by
    rw [← hrw, ← hqw, BitVec.and_assoc, BitVec.and_assoc, BitVec.and_comm r.mask]
  have : Std.Symm fun r q : OpcodeRow => r.pattern &&& q.mask ≠ q.pattern &&& r.mask := ⟨fun _ _ => Ne.symm⟩
  exact by_contra fun hne => opcodeMap_rows_differ.forall hr hq hne hsame

/-- No row looks at a bit its instructions ignore. -/
theorem usedBits_and_mask (i : Instr) : i.usedBits &&& i.row.mask = i.row.mask := by
  cases i with
  | cls | ret => exact BitVec.and_self
  | seReg | sneReg => exact (by decide : (0xFFF0 : Word) &&& 0xF000 = 0xF000)
  | _ => exact (BitVec.and_comm _ _).trans (and_allBits _)

open Laws.EncodedInItsRow in
/-- The laws of the rows, one per instruction, as one. -/
theorem encode_in_its_row (i : Instr) : Statement i := by
  cases i with
  | cls => exact cls
  | ret => exact ret
  | jp nnn => exact jp nnn
  | call nnn => exact call nnn
  | seImm x kk => exact seImm x kk
  | sneImm x kk => exact sneImm x kk
  | seReg x y => exact seReg x y
  | ldImm x kk => exact ldImm x kk
  | addImm x kk => exact addImm x kk
  | ldReg x y => exact ldReg x y
  | orReg x y => exact orReg x y
  | andReg x y => exact andReg x y
  | xorReg x y => exact xorReg x y
  | addReg x y => exact addReg x y
  | subReg x y => exact subReg x y
  | shrReg x y => exact shrReg x y
  | subnReg x y => exact subnReg x y
  | shlReg x y => exact shlReg x y
  | sneReg x y => exact sneReg x y
  | ldI nnn => exact ldI nnn
  | jpV0 nnn => exact jpV0 nnn
  | rnd x kk => exact rnd x kk
  | drw x y n => exact drw x y n
  | skp x => exact skp x
  | sknp x => exact sknp x
  | ldVxDt x => exact ldVxDt x
  | ldVxK x => exact ldVxK x
  | ldDtVx x => exact ldDtVx x
  | ldStVx x => exact ldStVx x
  | addI x => exact addI x
  | ldF x => exact ldF x
  | ldB x => exact ldB x
  | storeRegs x => exact storeRegs x
  | loadRegs x => exact loadRegs x

/-- A decoded word differs from the encoding of its instruction only in bits the row's mask drops. -/
theorem row_covers_of_decodeWord {w : Word} {i : Instr} (h : decodeWord w = some i) :
    i.row ∈ opcodeMap ∧ i.row.covers w = true := by
  obtain ⟨hmem, hcov⟩ := encode_in_its_row i
  rw [OpcodeRow.covers_iff, encodeOfDecode w i h, BitVec.and_assoc, usedBits_and_mask] at hcov
  exact ⟨hmem, (i.row.covers_iff w).mpr hcov⟩

/-! ## A word that a row covers is known -/

/-- How a row selects: by the class alone (R68), by the low nibble of class 8 (R70), or by class and low byte (R69, R71, R72). -/
theorem selector_of_mem_opcodeMap : ∀ r ∈ opcodeMap,
    (r.mask = 0xF000 ∧ fieldC r.pattern ∉ [0x0, 0x8, 0xE, 0xF]) ∨
    (r.mask = 0xF00F ∧ fieldC r.pattern = 0x8 ∧ decodeWord r.pattern ≠ none) ∨
    (r.mask = 0xF0FF ∧ decodeWord r.pattern ≠ none) := by
  decide

theorem fieldC_and_class (w : Word) : fieldC (w &&& 0xF000) = fieldC w := by
  rw [← wordA_fields w, wordA_mask_class, fieldC_wordA, fieldC_wordA]

theorem fields_and_nibble (w : Word) : fieldC (w &&& 0xF00F) = fieldC w ∧ fieldN (w &&& 0xF00F) = fieldN w := by
  rw [← wordXYN_fields w, wordXYN_mask_nibble]
  simp

theorem fields_and_byte (w : Word) : fieldC (w &&& 0xF0FF) = fieldC w ∧ fieldKk (w &&& 0xF0FF) = fieldKk w := by
  rw [← wordXK_fields w, wordXK_mask_byte]
  simp

/-- The low nibble is part of the low byte. -/
theorem fieldN_congr {v w : Word} (h : fieldKk v = fieldKk w) : fieldN v = fieldN w := by
  rw [← BitVec.toNat_inj, fieldKk_toNat, fieldKk_toNat] at h
  rw [← BitVec.toNat_inj, fieldN_toNat, fieldN_toNat]
  omega

/-- A class without a selector has no unknown word. -/
theorem decodeWord_ne_none_of_class {w : Word} (h : fieldC w ∉ [0x0, 0x8, 0xE, 0xF]) : decodeWord w ≠ none := by
  intro hnone
  rw [decodeWord_eq_none_iff] at hnone
  rcases hnone with ⟨hc, -⟩ | ⟨hc, -⟩ | ⟨hc, -⟩ | ⟨hc, -⟩ <;> simp [hc] at h

theorem decodeWord_of_class8 {w : Word} (h : fieldC w = 0x8) : decodeWord w = decodeClass8 w := by
  rw [decodeWord, h]
  rfl

/-- In class 8 the low nibble decides whether a word is known. -/
theorem decodeWord_and_nibble_eq_none_iff {w : Word} (h : fieldC w = 0x8) :
    decodeWord (w &&& 0xF00F) = none ↔ decodeWord w = none := by
  obtain ⟨hc, hn⟩ := fields_and_nibble w
  rw [decodeWord_of_class8 (hc.trans h), decodeWord_of_class8 h, decodeClass8_eq_none_iff, decodeClass8_eq_none_iff, hn]

/-- In every class the low byte decides it. -/
theorem decodeWord_and_byte_eq_none_iff (w : Word) : decodeWord (w &&& 0xF0FF) = none ↔ decodeWord w = none := by
  obtain ⟨hc, hkk⟩ := fields_and_byte w
  simp only [decodeWord_eq_none_iff, decodeClass0_eq_none_iff, decodeClass8_eq_none_iff, decodeClassE_eq_none_iff,
    decodeClassF_eq_none_iff, hc, hkk, fieldN_congr hkk]

theorem decodeWord_ne_none_of_covers {w : Word} {r : OpcodeRow} (hr : r ∈ opcodeMap) (h : r.covers w = true) :
    decodeWord w ≠ none := by
  rw [OpcodeRow.covers_iff] at h
  have hsel := selector_of_mem_opcodeMap r hr
  rw [← h] at hsel
  rcases hsel with ⟨hm, hc⟩ | ⟨hm, hc, hp⟩ | ⟨hm, hp⟩
  · rw [hm, fieldC_and_class] at hc
    exact decodeWord_ne_none_of_class hc
  · rw [hm] at hc hp
    rw [(fields_and_nibble w).1] at hc
    exact mt (decodeWord_and_nibble_eq_none_iff hc).mpr hp
  · rw [hm] at hp
    exact mt (decodeWord_and_byte_eq_none_iff w).mpr hp

/-- Settles O4: the masks keep two rows apart, and the decoder refuses exactly what no row covers. -/
theorem opcodeMapIsUnambiguous : Obligations.OpcodeMapIsUnambiguous := by
  refine ⟨fun _ _ hr _ hq => row_eq_of_covers hr hq, fun _ _ => row_covers_of_decodeWord, fun w => ⟨?_, ?_⟩⟩
  · intro hnone r hr
    exact Bool.eq_false_of_not_eq_true fun hcov => decodeWord_ne_none_of_covers hr hcov hnone
  · intro hrows
    refine Option.eq_none_iff_forall_ne_some.mpr fun i hi => ?_
    obtain ⟨hmem, hcov⟩ := row_covers_of_decodeWord hi
    exact Bool.false_ne_true ((hrows i.row hmem).symm.trans hcov)

/-! ## Words and bytes written out (R65, R73) -/

/-- Settles O1. -/
theorem specWordsDecode : Obligations.SpecWordsDecode := ⟨rfl, rfl, rfl, rfl, rfl, rfl, rfl, rfl, rfl, rfl⟩

theorem wordOfBytes_eq_ofNat (hi lo : Byte) : wordOfBytes hi lo = BitVec.ofNat 16 (hi.toNat * 256 + lo.toNat) := by
  rw [← Machine.wordOfBytes_toNat, BitVec.ofNat_toNat, BitVec.setWidth_eq]

/-- Settles O6: the word of the two bytes is the number the claim writes. -/
theorem bytesDecodeBigEndian : Obligations.BytesDecodeBigEndian := by
  intro hi lo rest
  rw [← wordOfBytes_eq_ofNat]
  rfl

end Sys2Proof
end

section
/-! PROOFS. The transitions of the frame controller one by one (40_fetch_execute.md R85 to R95): what each leaves, how many slots it
uses, and where PC can be after an instruction. -/

namespace Sys2Proof.Machine

/-! ## A step slot -/

/-- A step slot whose fetch is in range executes the word at PC on the advanced state, and the slot is used (R85, R87). -/
theorem step_fetched {s : State} (hs : s.InSlot) (hpc : s.pc.toNat + 1 ≤ 0xFFF) :
    step s = onNext State.endSlot (execWord s.wordAtPc s.advance) := by
  rw [step_inSlot hs, instrStep_fetched hpc, ← wordAtPc_eq]

/-- Settles O7: the word at PC decodes, so executing it is `exec`. -/
theorem stepRunsDecodedInstruction : Obligations.StepRunsDecodedInstruction := by
  intro s i ⟨hs, hpc, hw⟩
  rw [step_fetched hs hpc, execWord_known hw]
  rfl

/-- Settles O9: executing an unknown word leaves the advanced state. -/
theorem unknownWordOnlyAdvances : Obligations.UnknownWordOnlyAdvances := by
  intro s hs hpc hw
  rw [step_fetched hs hpc, execWord_unknown hw]
  rfl

/-! ## The rows of the controller that run no instruction -/

/-- Settles O10: the two rows of EXEC that run no instruction (R85, R92). -/
theorem slotsPassOnAFaultedCore : Obligations.SlotsPassOnAFaultedCore :=
  fun _ hp => ⟨fun hc hf => (step_exec hp).trans (execStep_faulted hc hf), fun hc => (step_exec hp).trans (execStep_end hc)⟩

theorem step_startFrame {s : State} {k : Option KeyCode} {rest : List Command} (hp : s.phase = .idle)
    (hq : s.port.commands = .frame k :: rest) : step s = .next (s.startFrame k rest) := by
  rw [step_idle hp, idleStep_frame hq]

/-- Settles O11: the rows of IDLE for a frame command and for none. -/
theorem idleTakesAFrameOrHolds : Obligations.IdleTakesAFrameOrHolds :=
  fun _ hp => ⟨fun _ _ hq => step_startFrame hp hq, fun hq => (step_idle hp).trans (congrArg _ (idleStep_none hq))⟩

/-- The sound predicate says that ST is above 0 (R222). -/
theorem sound_iff (s : State) : s.sound = true ↔ s.st.toNat > 0 := by
  rw [State.sound, bne_iff_ne, gt_iff_lt, Nat.pos_iff_ne_zero, Ne, Ne, ← BitVec.toNat_inj]
  rfl

/-- Settles O12: the step is `State.endFrame`, which publishes the ticked timers and the key still latched. -/
theorem tickEndsTheFrame : Obligations.TickEndsTheFrame := by
  intro s hp
  exact ⟨s.endFrame, step_tick hp, tickTimer_toNat s.dt, tickTimer_toNat s.st, rfl, sound_iff s.tickTimers, rfl, rfl, rfl, rfl,
    rfl⟩

/-! ## The slots of a frame (R94) -/

theorem endSlot_uses_slot {s u : State} (hp : u.phase = .exec) (hc : s.cyc ≠ 0) (huc : u.cyc = s.cyc) :
    u.endSlot.phase = .exec ∧ u.endSlot.cyc + 1 = s.cyc :=
  ⟨hp, by rw [endSlot_cyc, huc, Nat.sub_one_add_one hc]⟩

theorem Transition.uses_one_slot {s t : State} (ht : Transition s t) (hp : s.phase = .exec) (hc : s.cyc ≠ 0) :
    t.phase = .exec ∧ t.cyc + 1 = s.cyc := by
  cases ht with
  | hold hi | reset hi | load hi | startFrame hi | endFrame hi => cases hp.symm.trans hi
  | endExec _ h0 => exact absurd h0 hc
  | passSlot | fetchFault | unknown => exact endSlot_uses_slot hp hc rfl
  | run i u hi he => exact endSlot_uses_slot (he.sameController.phase.trans hp) hc he.sameController.cyc

theorem loadProgram_cyclesPerFrame (s : State) (bytes : List Byte) (rest : List Command) :
    (s.loadProgram bytes rest).port.cyclesPerFrame = s.port.cyclesPerFrame := by
  rcases Nat.lt_or_ge 3584 bytes.length with hgt | hle
  · rw [loadProgram_of_gt s hgt]
  · rw [loadProgram_of_le s hle]

/-- CYCLES_PER_FRAME is fixed (R8). -/
theorem Transition.cyclesPerFrame_eq {s t : State} (ht : Transition s t) :
    t.port.cyclesPerFrame = s.port.cyclesPerFrame := by
  cases ht with
  | load _ bytes rest => exact loadProgram_cyclesPerFrame s bytes rest
  | run i u hi he => exact he.sameController.cyclesPerFrame
  | _ => rfl

/-- Settles O56, transition by transition. -/
theorem oneSlotAStep : Obligations.OneSlotAStep :=
  fun _ _ h => ⟨(Transition.of_step h).uses_one_slot, (Transition.of_step h).cyclesPerFrame_eq⟩

/-! ## Where PC can be after a step (R95) -/

theorem immAddr_toNat (nnn : BitVec 12) : (immAddr nnn).toNat = nnn.toNat :=
  BitVec.toNat_setWidth_of_le (by decide)

theorem zext16_toNat (b : Byte) : (zext16 b).toNat = b.toNat :=
  BitVec.toNat_setWidth_of_le (by decide)

/-- The target of Bnnn, from the instruction's own address (R108). -/
theorem jpV0_target_toNat (a : Word) (nnn : BitVec 12) (b : Byte) :
    (a + 2 + immAddr nnn + zext16 b).toNat = (a.toNat + 2 + nnn.toNat + b.toNat) % 2 ^ 16 := by
  simp only [BitVec.toNat_add, immAddr_toNat, zext16_toNat, BitVec.ofNat_eq_ofNat, BitVec.toNat_ofNat]
  omega

/-- Settles O51, by the transitions of a step slot and the effects an instruction can have: each effect that is no fault says where it
leaves PC. -/
theorem pcAfterAStep : Obligations.PcAfterAStep := by
  intro s t hs hstep hf
  cases Transition.of_step hstep with
  | hold hp | reset hp | load hp | startFrame hp | endFrame hp => cases hs.phase.symm.trans hp
  | endExec _ hc => exact absurd hc hs.2.1
  | passSlot _ _ hfault => exact absurd hs.noFault hfault
  | fetchFault => cases hf
  | unknown => exact .inl rfl
  | run i u hi he =>
    cases he with
    | skip a ha => exact ha.imp id fun h => .inl (h.trans (BitVec.add_assoc s.pc 2 2))
    | keyWait x hk => exact .inr (.inr (.inl ⟨instrAddr_advance s, hk, x, hi⟩))
    | jp nnn => exact .inr (.inr (.inr (.inl ⟨nnn, immAddr_toNat nnn, .inl hi⟩)))
    | call nnn => exact .inr (.inr (.inr (.inl ⟨nnn, immAddr_toNat nnn, .inr hi⟩)))
    | ret => exact .inr (.inr (.inr (.inr (.inl ⟨rfl, hi⟩))))
    | jpV0 nnn => exact .inr (.inr (.inr (.inr (.inr ⟨nnn, jpV0_target_toNat s.pc nnn (s.reg 0), hi⟩))))
    | underflow | overflow | outOfRange => cases hf
    | _ => exact .inl rfl

end Sys2Proof.Machine
end

section
/-! PROOFS. A whole frame (40_fetch_execute.md R85, R86): the controller runs the slots of `Frame(key_in)` with PHASE, CYC and the
queue of its own, which no instruction reads (R33). -/

namespace Sys2Proof.Machine

/-! ## One transition after another -/

/-- Run `f` on the next state; a stop stays a stop. -/
def andThen (f : State → Host.Outcome State Fault Refusal) : Host.Outcome State Fault Refusal → Host.Outcome State Fault Refusal
  | .next s => f s
  | .fault r => .fault r
  | .refused r => .refused r

theorem andThen_onNext (f : State → Host.Outcome State Fault Refusal) (g : State → State)
    (o : Host.Outcome State Fault Refusal) : andThen f (onNext g o) = andThen (fun t => f (g t)) o := by
  cases o <;> rfl

theorem onNext_andThen (f : State → Host.Outcome State Fault Refusal) (g : State → State)
    (o : Host.Outcome State Fault Refusal) : onNext g (andThen f o) = andThen (fun t => onNext g (f t)) o := by
  cases o <;> rfl

theorem andThen_assoc (f g : State → Host.Outcome State Fault Refusal) (o : Host.Outcome State Fault Refusal) :
    andThen f (andThen g o) = andThen (fun t => andThen f (g t)) o := by
  cases o <;> rfl

theorem onNext_onNext (g g' : State → State) (o : Host.Outcome State Fault Refusal) :
    onNext g (onNext g' o) = onNext (fun t => g (g' t)) o := by
  cases o <;> rfl

/-- The run of the machine, at the types of its own state. -/
def run : Nat → State → Host.Outcome State Fault Refusal := core.run

theorem run_succ (k : Nat) (s : State) : run (k + 1) s = andThen (run k) (step s) := by
  obtain ⟨t, ht, -⟩ := exists_transition s
  have hcore : core.step s = .next t := ht
  rw [ht, run]
  simp only [Host.Core.run, hcore]
  rfl

/-- One slot of a frame: a step, unless a fault is recorded (R86, R92). -/
def slotStep (s : State) : Host.Outcome State Fault Refusal := if s.faultCause = .noFault then instrStep s else .next s

theorem runSlots_succ (n : Nat) (s : State) : runSlots (n + 1) s = andThen (runSlots n) (slotStep s) := by
  rw [runSlots, ← slotStep]
  cases slotStep s <;> rfl

/-! ## A slot does not read the hidden state (R33) -/

section

variable (h : Hidden)

theorem execWord_hide (w : Word) (s : State) : execWord w (s.hide h) = onNext (State.hide h) (execWord w s) := by
  cases hw : decodeWord w with
  | some i => rw [execWord_known hw, execWord_known hw, exec_hide]
  | none => rw [execWord_unknown hw, execWord_unknown hw]; rfl

theorem instrStep_hide (s : State) : instrStep (s.hide h) = onNext (State.hide h) (instrStep s) := by
  by_cases hpc : s.pc.toNat + 1 ≤ 0xFFF
  · rw [instrStep_fetched hpc, ← execWord_hide]
    exact instrStep_fetched hpc
  · have hgt : 0xFFF < s.pc.toNat + 1 := by omega
    rw [instrStep_outOfRange hgt]
    exact instrStep_outOfRange hgt

theorem slotStep_hide (s : State) : slotStep (s.hide h) = onNext (State.hide h) (slotStep s) := by
  by_cases hf : s.faultCause = .noFault
  · rw [slotStep, slotStep, if_pos hf, ← instrStep_hide]
    exact if_pos hf
  · rw [slotStep, slotStep, if_neg hf]
    exact if_neg hf

theorem runSlots_hide (n : Nat) : ∀ s, runSlots n (s.hide h) = onNext (State.hide h) (runSlots n s) := by
  induction n with
  | zero => exact fun _ => rfl
  | succ n ih =>
    intro s
    simp only [runSlots_succ, slotStep_hide, andThen_onNext, onNext_andThen, ih]

/-! ## The controller runs the slots (R85) -/

/-- The hidden state in EXEC with `n` slots left. -/
def Hidden.atSlot (n : Nat) : Hidden := { h with phase := .exec, cyc := n }

theorem step_hide_atSlot (n : Nat) (s : State) :
    step (s.hide (h.atSlot (n + 1))) = onNext (State.hide (h.atSlot n)) (slotStep s) := by
  have hcyc : (s.hide (h.atSlot (n + 1))).cyc ≠ 0 := Nat.succ_ne_zero n
  have hexec : step (s.hide (h.atSlot (n + 1))) = execStep (s.hide (h.atSlot (n + 1))) := step_exec rfl
  by_cases hf : s.faultCause = .noFault
  · rw [hexec, execStep_runs hcyc hf, instrStep_hide, slotStep, if_pos hf]
    cases instrStep s <;> rfl
  · rw [hexec, execStep_faulted hcyc hf, slotStep, if_neg hf]
    rfl

/-- The transitions of `n` slots are the `n` slots of R86, whatever follows. -/
theorem run_slots (k n : Nat) : ∀ s : State,
    run (k + n) (s.hide (h.atSlot n)) = andThen (fun t => run k (t.hide (h.atSlot 0))) (runSlots n s) := by
  induction n with
  | zero => exact fun _ => rfl
  | succ n ih =>
    intro s
    simp only [← Nat.add_assoc, run_succ, step_hide_atSlot, andThen_onNext, runSlots_succ, andThen_assoc, ih]

end

/-! ## The end of the frame (R85, R86, R220) -/

theorem tickTimer_eq (t : Byte) : tickTimer t = if t > 0 then t - 1 else t := by
  revert t; decide

theorem sound_eq (s : State) : s.sound = decide (s.st > 0) := by
  rw [Bool.eq_iff_iff, sound_iff, decide_eq_true_eq]
  rfl

/-- TICK closes the frame as R86 does, goes to IDLE and signals frame_done. -/
theorem endFrame_eq (s : State) :
    s.endFrame = { closeFrame s with phase := .idle, port := { s.port with reply := some .frameDone } } := by
  simp only [State.endFrame, State.publish, sound_eq, State.diag, State.tickTimers, closeFrame, tickTimer_eq]

/-- After the last slot two transitions are left, to TICK and to IDLE (R85). -/
theorem run_slots_and_end (h : Hidden) (n : Nat) (s : State) :
    run (n + 2) (s.hide (h.atSlot n)) = onNext (fun t => (t.hide (h.atSlot 0)).endExec.endFrame) (runSlots n s) := by
  rw [Nat.add_comm, run_slots]
  cases runSlots n s <;> rfl

/-! ## The frame as one function (R86) -/

/-- The state whose slots `Frame(key_in)` runs: the command is taken and the key latched. -/
def State.takeFrame (s : State) (k : Option KeyCode) (rest : List Command) : State :=
  { s with port := { s.port with commands := rest, reply := none }, key := k }

/-- What `s` holds in the hidden state. -/
def State.hidden (s : State) : Hidden :=
  ⟨s.phase, s.cyc, s.outDisp, s.outSound, s.outDiag, s.port.commands, s.port.reply⟩

theorem hide_hidden (s : State) : s.hide s.hidden = s := rfl

theorem startFrame_eq_hide (s : State) (k : Option KeyCode) (rest : List Command) :
    s.startFrame k rest = (s.takeFrame k rest).hide ((s.takeFrame k rest).hidden.atSlot s.port.cyclesPerFrame) := rfl

/-- The slots of a frame leave PHASE, CYC and the queue as in the state they start from. -/
theorem runSlots_keeps_hidden (n : Nat) (s : State) : runSlots n s = onNext (State.hide s.hidden) (runSlots n s) := by
  rw [← runSlots_hide, hide_hidden]

/-- What the last two transitions leave is what R86 leaves: `u` closed, in IDLE with CYC = 0, and frame_done signalled. -/
theorem endFrame_atSlot_zero {h : Hidden} (hp : h.phase = .idle) (hc : h.cyc = 0) (u : State) :
    (u.hide (h.atSlot 0)).endExec.endFrame =
      { closeFrame (u.hide h) with port := { (closeFrame (u.hide h)).port with reply := some .frameDone } } := by
  rw [endFrame_eq]
  cases h
  subst hp hc
  rfl

/-- Settles O13: the frame command starts the slots of R86 in EXEC, the controller runs them one by one, and its last two transitions
close the frame. -/
theorem wholeFrameIsFrameFunction : Obligations.WholeFrameIsFrameFunction := by
  intro s k rest hp hc hq
  calc run (s.port.cyclesPerFrame + 2 + 1) s
      = run (s.port.cyclesPerFrame + 2) (s.startFrame k rest) := by rw [run_succ, step_startFrame hp hq]; rfl
    _ = onNext (fun t => (t.hide ((s.takeFrame k rest).hidden.atSlot 0)).endExec.endFrame)
          (runSlots s.port.cyclesPerFrame (s.takeFrame k rest)) := by rw [startFrame_eq_hide, run_slots_and_end]
    _ = onNext (fun t => { t with port := { t.port with reply := some .frameDone } })
          (onNext closeFrame (runSlots s.port.cyclesPerFrame (s.takeFrame k rest))) := by
        rw [runSlots_keeps_hidden s.port.cyclesPerFrame (s.takeFrame k rest)]
        simp only [onNext_onNext]
        exact congrArg (onNext · _) (funext fun u => endFrame_atSlot_zero hp hc (u.hide _))

end Sys2Proof.Machine
end

section
/-! PROOFS. Control flow (41_control_flow.md): a jump and a skip write PC only, a call and a return PC, SP and the call stack only, and a
return from what a call left is the state before the call but for the slot written. -/

namespace Sys2Proof.Machine

/-! ## PC: jumps and skips (R100, R102, R104 to R108) -/

theorem onlyPcChanges_setPc (s : State) (a : Word) : OnlyPcChanges s (s.setPc a) :=
  ⟨rfl, fun _ => rfl, fun _ _ => rfl⟩

theorem onlyPcChanges_skipIf (s : State) (c : Bool) : OnlyPcChanges s (s.skipIf c) := by
  rw [skipIf_eq]
  exact onlyPcChanges_setPc s _

/-- A skip adds 2 to PC exactly when its condition holds (R100). -/
theorem skipIf_pc_toNat (s : State) (c : Bool) :
    (s.skipIf c).pc.toNat = (s.pc.toNat + if c then 2 else 0) % 2 ^ 16 := by
  rw [skipIf_eq]
  cases c
  · exact (Nat.mod_eq_of_lt s.pc.isLt).symm
  · exact BitVec.toNat_add s.pc 2

theorem skipIf_beq_pc_toNat (s : State) (a b : Byte) :
    (s.skipIf (a == b)).pc.toNat = (s.pc.toNat + if a.toNat = b.toNat then 2 else 0) % 2 ^ 16 := by
  simp only [skipIf_pc_toNat, beq_iff_eq, BitVec.toNat_inj]

theorem skipIf_bne_pc_toNat (s : State) (a b : Byte) :
    (s.skipIf (a != b)).pc.toNat = (s.pc.toNat + if a.toNat = b.toNat then 0 else 2) % 2 ^ 16 := by
  simp only [skipIf_pc_toNat, bne_iff_ne, BitVec.toNat_inj, ne_eq, ite_not]

/-- Settles O18: JP is the write of PC. -/
theorem jumpGoesToItsAddress : Obligations.JumpGoesToItsAddress :=
  fun nnn s => ⟨_, rfl, immAddr_toNat nnn, onlyPcChanges_setPc s _⟩

/-- Settles O20: the two skips test equality and inequality of Vx and kk. -/
theorem skipOnImmediate : Obligations.SkipOnImmediate :=
  fun x kk s => ⟨⟨_, rfl, skipIf_beq_pc_toNat s (s.reg x) kk, onlyPcChanges_skipIf s _⟩,
    ⟨_, rfl, skipIf_bne_pc_toNat s (s.reg x) kk, onlyPcChanges_skipIf s _⟩⟩

/-- Settles O21: the two skips test equality and inequality of Vx and Vy. -/
theorem skipOnRegister : Obligations.SkipOnRegister :=
  fun x y s => ⟨⟨_, rfl, skipIf_beq_pc_toNat s (s.reg x) (s.reg y), onlyPcChanges_skipIf s _⟩,
    ⟨_, rfl, skipIf_bne_pc_toNat s (s.reg x) (s.reg y), onlyPcChanges_skipIf s _⟩⟩

/-- The target of Bnnn, from the advanced PC (R108). -/
theorem jpV0_target_from_advanced_toNat (pc : Word) (nnn : BitVec 12) (b : Byte) :
    (pc + immAddr nnn + zext16 b).toNat = (pc.toNat + nnn.toNat + b.toNat) % 2 ^ 16 := by
  rw [BitVec.toNat_add, BitVec.toNat_add, immAddr_toNat, zext16_toNat, Nat.mod_add_mod]

/-- Settles O22: JP V0 is the write of PC with the target of R108. -/
theorem jumpV0IsRelativeToAdvancedPc : Obligations.JumpV0IsRelativeToAdvancedPc :=
  fun nnn s => ⟨_, rfl, jpV0_target_from_advanced_toNat s.pc nnn (s.reg 0), onlyPcChanges_setPc s _⟩

/-! ## The call stack (R25, R26) -/

/-- A push writes the slot above SP and no other (R103). -/
theorem pushPc_slot (s : State) (k : Fin 16) : s.pushPc.stack[k] = if k = s.sp + 1 then s.pc else s.stack[k] := by
  simp only [pushPc_stack, Fin.getElem_fin, Vector.getElem_set, Fin.ext_iff, eq_comm]

theorem onlyPcAndStackChange_popPc (s : State) : OnlyPcAndStackChange s s.popPc :=
  ⟨rfl, fun _ => rfl, fun _ _ => rfl⟩

theorem onlyPcAndStackChange_pushPc_setPc (s : State) (a : Word) : OnlyPcAndStackChange s (s.pushPc.setPc a) :=
  ⟨rfl, fun _ => rfl, fun _ _ => rfl⟩

/-- A pop after a push, from any PC, restores PC and SP, and leaves the pushed slot (R101, R103). -/
theorem popPc_setPc_pushPc (s : State) (a : Word) : (s.pushPc.setPc a).popPc = { s with stack := s.pushPc.stack } := by
  have hpc : s.pushPc.stack[s.sp + 1] = s.pc := (pushPc_slot s _).trans (if_pos rfl)
  have hsp : s.sp + 1 - 1 = s.sp := add_sub_cancel_right s.sp 1
  calc (s.pushPc.setPc a).popPc
      = { s with pc := s.pushPc.stack[s.sp + 1], sp := s.sp + 1 - 1, stack := s.pushPc.stack } := rfl
    _ = { s with stack := s.pushPc.stack } := by rw [hpc, hsp]

/-! ## Call and return (R101, R103) -/

theorem exec_ret_of_ne {s : State} (h : s.sp ≠ 0) : exec .ret s = .next s.popPc :=
  congrArg Host.Outcome.next (guardFault_of_pass s (bne_iff_ne.mpr h) _ _)

theorem exec_ret_of_empty {s : State} (h : s.sp = 0) : exec .ret s = .next (s.raiseFault .stackUnderflow s.instrAddr) :=
  congrArg Host.Outcome.next (guardFault_of_fail s (bne_eq_false_iff_eq.mpr h) _ _)

theorem exec_call_of_ne {s : State} (h : s.sp ≠ 15) (nnn : BitVec 12) :
    exec (.call nnn) s = .next (s.pushPc.setPc (immAddr nnn)) :=
  congrArg Host.Outcome.next (guardFault_of_pass s (bne_iff_ne.mpr h) _ _)

theorem exec_call_of_full {s : State} (h : s.sp = 15) (nnn : BitVec 12) :
    exec (.call nnn) s = .next (s.raiseFault .stackOverflow s.instrAddr) :=
  congrArg Host.Outcome.next (guardFault_of_fail s (bne_eq_false_iff_eq.mpr h) _ _)

/-- Below the top, SP + 1 does not wrap (R26). -/
theorem sp_succ_val {p : Fin 16} (h : p ≠ 15) : (p + 1).val = p.val + 1 :=
  Fin.val_add_one_of_lt (Fin.lt_last_iff_ne_last.mpr h)

/-- Slot SP + 1, by its number. -/
theorem eq_sp_succ_iff {p : Fin 16} (h : p ≠ 15) (k : Fin 16) : k = p + 1 ↔ k.val = p.val + 1 := by
  rw [Fin.ext_iff, sp_succ_val h]

/-- The fault of an instruction fetched at `a` is recorded at `a` (R89, R211). -/
theorem faultState_at_instrAddr {s : State} {a : Word} (h : s.pc = a + 2) (c : FaultCause) :
    FaultState s c a (s.raiseFault c s.instrAddr) := by
  have haddr : s.instrAddr = a := by rw [State.instrAddr, h, BitVec.add_sub_cancel]
  rw [haddr]
  exact faultState_raiseFault s c a

/-- Settles O17: RET pops, or faults where SP is 0. -/
theorem returnPopsOrUnderflows : Obligations.ReturnPopsOrUnderflows := by
  intro s
  constructor
  · intro h
    exact ⟨s.popPc, exec_ret_of_ne h, rfl, Fin.val_sub_one_of_ne_zero h, rfl, onlyPcAndStackChange_popPc s⟩
  · intro h a ha
    exact ⟨_, exec_ret_of_empty h, faultState_at_instrAddr ha _⟩

/-- Settles O19: CALL pushes and jumps, or faults where SP is 15. -/
theorem callPushesOrOverflows : Obligations.CallPushesOrOverflows := by
  intro nnn s
  constructor
  · intro h
    refine ⟨s.pushPc.setPc (immAddr nnn), exec_call_of_ne h nnn, sp_succ_val h, immAddr_toNat nnn, fun k => ?_,
      onlyPcAndStackChange_pushPc_setPc s _⟩
    simp only [setPc_stack, pushPc_slot, eq_sp_succ_iff h]
  · intro h a ha
    exact ⟨_, exec_call_of_full h nnn, faultState_at_instrAddr ha _⟩

/-- Settles O24: the call pushed, so SP is not 0 and the return pops what the call pushed. -/
theorem returnUndoesCall : Obligations.ReturnUndoesCall := by
  intro nnn s t a h hcall
  obtain rfl := Host.Outcome.next.inj ((exec_call_of_ne h nnn).symm.trans hcall)
  have hsp : s.sp + 1 ≠ 0 := Fin.val_ne_zero_iff.mp (sp_succ_val h ▸ Nat.succ_ne_zero s.sp.val)
  have hret : exec .ret (s.pushPc.setPc a) = .next { s with stack := s.pushPc.stack } :=
    (exec_ret_of_ne hsp).trans (congrArg _ (popPc_setPc_pushPc s a))
  refine ⟨_, hret, rfl, rfl, rfl, fun k hk => ?_⟩
  exact (pushPc_slot s k).trans (if_neg (mt (eq_sp_succ_iff h k).mp hk))

end Sys2Proof.Machine
end

section
/-! PROOFS. Register loads and the ALU (42_alu.md): a plain result is one register write, a result with a flag is
`State.setFlagThenReg`, and each flag is a number computed from the old registers. -/

namespace Sys2Proof.Machine

/-! ## Writes of registers -/

theorem onlyRegsChange_setReg (s : State) (x : RegIx) (b : Byte) : OnlyRegsChange s (s.setReg x b) :=
  ⟨rfl, fun _ => rfl, fun _ _ => rfl⟩

theorem onlyRegsChange_setFlagThenReg (s : State) (x : RegIx) (flag result : Byte) :
    OnlyRegsChange s (s.setFlagThenReg x flag result) :=
  ⟨setFlagThenReg_eq s x flag result, fun _ => rfl, fun _ _ => rfl⟩

theorem reg_setReg_of_ne (s : State) {x r : RegIx} (h : r ≠ x) (b : Byte) : (s.setReg x b).reg r = s.reg r :=
  (reg_setReg s x r b).trans (if_neg h)

/-- A plain result `b` (R122 to R127): it stands in Vx, and nothing else changes, VF included unless it is Vx. -/
theorem setReg_effect (s : State) (x : RegIx) (b : Byte) :
    (s.setReg x b).reg x = b ∧ (∀ r : RegIx, r ≠ x → (s.setReg x b).reg r = s.reg r) ∧
      OnlyRegsChange s (s.setReg x b) :=
  ⟨reg_setReg_same s x b, fun _ hr => reg_setReg_of_ne s hr b, onlyRegsChange_setReg s x b⟩

/-- A result with a flag, both as numbers (R120): the result stands in Vx, the flag in VF unless VF is Vx, and nothing else changes. -/
theorem setFlagThenReg_effect (s : State) (x : RegIx) {flag result : Byte} {f v : Nat} (hresult : result.toNat = v)
    (hflag : flag.toNat = f) :
    ((s.setFlagThenReg x flag result).reg x).toNat = v ∧
      (x ≠ 15 → ((s.setFlagThenReg x flag result).reg 15).toNat = f) ∧
      (∀ r : RegIx, r ≠ x → r ≠ 15 → (s.setFlagThenReg x flag result).reg r = s.reg r) ∧
      OnlyRegsChange s (s.setFlagThenReg x flag result) := by
  refine ⟨?_, fun hx => ?_, fun r hr hF => ?_, onlyRegsChange_setFlagThenReg s x flag result⟩
  · rw [reg_setFlagThenReg, if_pos rfl, hresult]
  · rw [reg_setFlagThenReg, if_neg hx.symm, if_pos rfl, hflag]
  · rw [reg_setFlagThenReg, if_neg hr, if_neg hF]

/-! ## Flags as numbers (R121, R128 to R132) -/

theorem flagByte_toNat (b : Bool) : (flagByte b).toNat = if b then 1 else 0 := by
  cases b <;> rfl

theorem carryFlag_toNat (a b : Byte) : (carryFlag a b).toNat = if a.toNat + b.toNat > 255 then 1 else 0 := by
  simp only [carryFlag, flagByte_toNat, decide_eq_true_eq]

theorem greaterFlag_toNat (a b : Byte) : (greaterFlag a b).toNat = if a.toNat > b.toNat then 1 else 0 := by
  simp only [greaterFlag, flagByte_toNat, decide_eq_true_eq]

/-- A flag taken from bit `k` is that binary digit. -/
theorem flagByte_getLsbD_toNat (b : Byte) (k : Nat) : (flagByte (b.getLsbD k)).toNat = b.toNat / 2 ^ k % 2 := by
  rw [flagByte_toNat, BitVec.getLsbD, Nat.testBit_eq_decide_div_mod_eq]
  simp only [decide_eq_true_eq]
  split <;> omega

theorem lowBitFlag_toNat (b : Byte) : (lowBitFlag b).toNat = b.toNat % 2 :=
  (flagByte_getLsbD_toNat b 0).trans (by rw [Nat.pow_zero, Nat.div_one])

theorem highBitFlag_toNat (b : Byte) : (highBitFlag b).toNat = b.toNat / 128 := by
  have hbit : (highBitFlag b).toNat = b.toNat / 2 ^ 7 % 2 := flagByte_getLsbD_toNat b 7
  have hlt := b.isLt
  omega

/-! ## Results as numbers and as bits (R125 to R132) -/

theorem sub_toNat (a b : Byte) : (a - b).toNat = (a.toNat + 256 - b.toNat) % 256 := by
  have hlt := b.isLt
  rw [BitVec.toNat_sub]
  omega

theorem shiftRight_one_toNat (b : Byte) : (b >>> 1).toNat = b.toNat / 2 := by
  rw [BitVec.toNat_ushiftRight, Nat.shiftRight_one]

theorem shiftLeft_one_toNat (b : Byte) : (b <<< 1).toNat = b.toNat * 2 % 256 := by
  rw [BitVec.toNat_shiftLeft, Nat.shiftLeft_eq]

theorem getLsbD_of_eq {a b : Byte} (h : a = b) {k : Nat} {p : Bool} (hb : b.getLsbD k = p) : a.getLsbD k = p :=
  h ▸ hb

/-! ## The instructions -/

/-- Settles O27: ADD Vx, Vy writes the carry and then the sum. -/
theorem addSetsCarry : Obligations.AddSetsCarry :=
  fun x y s =>
    ⟨_, rfl, setFlagThenReg_effect s x (BitVec.toNat_add (s.reg x) (s.reg y)) (carryFlag_toNat (s.reg x) (s.reg y))⟩

/-- Settles O28: SUB and SUBN are one subtraction, with the operands the other way round. -/
theorem subtractSetsStrictFlag : Obligations.SubtractSetsStrictFlag :=
  fun x y s =>
    ⟨⟨_, rfl, setFlagThenReg_effect s x (sub_toNat (s.reg x) (s.reg y)) (greaterFlag_toNat (s.reg x) (s.reg y))⟩,
      ⟨_, rfl, setFlagThenReg_effect s x (sub_toNat (s.reg y) (s.reg x)) (greaterFlag_toNat (s.reg y) (s.reg x))⟩⟩

/-- Settles O29: SHR and SHL shift Vy, and their flags are the lowest and the highest bit of Vx. -/
theorem shiftsTakeFlagFromVxValueFromVy : Obligations.ShiftsTakeFlagFromVxValueFromVy :=
  fun x y s =>
    ⟨⟨_, rfl, setFlagThenReg_effect s x (shiftRight_one_toNat (s.reg y)) (lowBitFlag_toNat (s.reg x))⟩,
      ⟨_, rfl, setFlagThenReg_effect s x (shiftLeft_one_toNat (s.reg y)) (highBitFlag_toNat (s.reg x))⟩⟩

/-- Settles O25: each of the three is a plain result. -/
theorem movesAndImmediateAdd : Obligations.MovesAndImmediateAdd :=
  fun x y kk s =>
    ⟨⟨_, rfl, setReg_effect s x kk⟩,
      ⟨_, rfl, (setReg_effect s x (s.reg x + kk)).imp_left fun h => (congrArg BitVec.toNat h).trans (BitVec.toNat_add _ _)⟩,
      ⟨_, rfl, setReg_effect s x (s.reg y)⟩⟩

/-- Settles O26: each of the three is a plain result, whose bits are those of Vx and Vy combined. -/
theorem logicalOperations : Obligations.LogicalOperations :=
  fun x y s =>
    ⟨⟨_, rfl, (setReg_effect s x (s.reg x ||| s.reg y)).imp_left fun h _ => getLsbD_of_eq h BitVec.getLsbD_or⟩,
      ⟨_, rfl, (setReg_effect s x (s.reg x &&& s.reg y)).imp_left fun h _ => getLsbD_of_eq h BitVec.getLsbD_and⟩,
      ⟨_, rfl, (setReg_effect s x (s.reg x ^^^ s.reg y)).imp_left fun h _ => getLsbD_of_eq h BitVec.getLsbD_xor⟩⟩

/-! ## Random draws (R133) -/

theorem nextDraw_supplied {p : HostPort} {r : Byte} {rest : List Byte} (h : p.rand = r :: rest) : p.nextDraw = r := by
  rw [HostPort.nextDraw, h]

theorem nextDraw_free {p : HostPort} (h : p.rand = []) : p.nextDraw = Config.randIn p.draws := by
  rw [HostPort.nextDraw, h]

/-- Settles O30: RND writes the draw AND kk to Vx of the state with the draw consumed. -/
theorem randomMasksOneFreshDraw : Obligations.RandomMasksOneFreshDraw := by
  intro x kk s
  obtain ⟨hvalue, hothers, -⟩ := setReg_effect s.takeDraw x (s.port.nextDraw &&& kk)
  refine ⟨_, rfl, fun r rest h => ⟨?_, congrArg List.tail h⟩, fun h => ⟨?_, congrArg List.tail h⟩, rfl, hothers, rfl,
    fun _ => rfl, fun _ _ => rfl⟩
  · exact hvalue.trans (congrArg (· &&& kk) (nextDraw_supplied h))
  · exact hvalue.trans (congrArg (· &&& kk) (nextDraw_free h))

end Sys2Proof.Machine
end

section
/-! PROOFS. The index register and the memory block instructions (43_index_memory.md): a write of I is one update, a store through I
writes exactly its bytes, and the check of the whole range decides between the effect and the fault (R150, R211). -/

namespace Sys2Proof.Machine

/-! ## Frames -/

theorem onlyIndexChanges_setIndex (s : State) (a : Word) : OnlyIndexChanges s (s.setIndex a) :=
  ⟨rfl, fun _ => rfl, fun _ _ => rfl⟩

theorem onlyMemoryChanges_setMem (s : State) (m : Memory) : OnlyMemoryChanges s (s.setMem m) :=
  ⟨rfl, fun _ _ => rfl⟩

theorem onlyRegsChange_setRegs (s : State) (v : Vector Byte 16) : OnlyRegsChange s (s.setRegs v) :=
  ⟨rfl, fun _ => rfl, fun _ _ => rfl⟩

/-! ## The range from I -/

/-- A range that is not empty passes its check when its last byte, `n` above I, exists (R48, R150). -/
theorem indexSpanExists_succ_iff (s : State) (n : Nat) : s.indexSpanExists (n + 1) = true ↔ s.i.toNat + n ≤ 0xFFF :=
  (spanExists_iff s.i.toNat (n + 1)).trans (or_iff_right (Nat.succ_ne_zero n))

theorem indexSpanExists_succ_of_gt {s : State} {n : Nat} (h : s.i.toNat + n > 0xFFF) :
    s.indexSpanExists (n + 1) = false :=
  Bool.eq_false_iff.mpr (mt (indexSpanExists_succ_iff s n).mp (Nat.not_le_of_gt h))

/-! ## Stores through I (R154, R155) -/

/-- A stored byte stands at its own place. -/
theorem read_writeBytes_stored (m : Memory) (a : Nat) {bs : List Byte} {k : Nat} (h : k < bs.length) :
    Memory.read (Memory.writeBytes m a bs) (a + k) = bs[k] := by
  simp only [read_writeBytes, Nat.le_add_right, Nat.add_sub_cancel_left, h, and_self, dite_true]

/-- A byte below or above those stored is as before; `n` is the number of the last one stored. -/
theorem read_writeBytes_outside (m : Memory) {a n k : Nat} {bs : List Byte} (hlen : bs.length = n + 1)
    (h : k < a ∨ a + n < k) : Memory.read (Memory.writeBytes m a bs) k = Memory.read m k := by
  rw [read_writeBytes, dif_neg (by omega)]

theorem storeAtIndex_of_le {s : State} {bs : List Byte} {n : Nat} (hlen : bs.length = n + 1)
    (h : s.i.toNat + n ≤ 0xFFF) : s.storeAtIndex bs = s.setMem (Memory.writeBytes s.mem s.i.toNat bs) :=
  guardFault_of_pass s (hlen ▸ (indexSpanExists_succ_iff s n).mpr h) _ _

theorem storeAtIndex_of_gt {s : State} {bs : List Byte} {n : Nat} (hlen : bs.length = n + 1)
    (h : s.i.toNat + n > 0xFFF) : s.storeAtIndex bs = s.raiseFault .memOob s.instrAddr :=
  guardFault_of_fail s (hlen ▸ indexSpanExists_succ_of_gt h) _ _

/-- The digits of Fx33 as numbers. -/
theorem decimalDigits_toNat (b : Byte) :
    (decimalDigits b).map BitVec.toNat = [b.toNat / 100, b.toNat / 10 % 10, b.toNat % 10] := by
  simp [decimalDigits]

/-- The stored digit `k` of Fx33 is the number at place `k` of those digits. -/
theorem read_decimalDigits (m : Memory) (a : Nat) (b : Byte) {k : Nat} (h : k < 3) :
    (Memory.read (Memory.writeBytes m a (decimalDigits b)) (a + k)).toNat =
      [b.toNat / 100, b.toNat / 10 % 10, b.toNat % 10][k] := by
  have hk : k < (decimalDigits b).length := h
  simp only [read_writeBytes_stored m a hk, ← decimalDigits_toNat, List.getElem_map]

/-- Settles O32: the three digits are stored from I on, or the check of I + 2 fails. -/
theorem decimalDigitsAreStored : Obligations.DecimalDigitsAreStored := by
  intro x s
  have hlen : (decimalDigits (s.reg x)).length = 2 + 1 := rfl
  have digit {k : Nat} (hk : k < 3) := read_decimalDigits s.mem s.i.toNat (s.reg x) hk
  constructor
  · intro h
    exact ⟨_, congrArg Host.Outcome.next (storeAtIndex_of_le hlen h), digit (k := 0) (by decide),
      digit (k := 1) (by decide), digit (k := 2) (by decide),
      fun _ ha => read_writeBytes_outside s.mem hlen ha, onlyMemoryChanges_setMem s _⟩
  · intro h a ha
    exact ⟨_, congrArg Host.Outcome.next (storeAtIndex_of_gt hlen h), faultState_at_instrAddr ha _⟩

/-- Settles O33: V0..Vx are stored from I on, or the check of I + x fails. -/
theorem registersAreStored : Obligations.RegistersAreStored := by
  intro x s
  have hlen : ((regsUpTo x).map s.reg).length = x.val + 1 := (List.length_map s.reg).trans (regsUpTo_length x)
  constructor
  · intro h
    exact ⟨_, exec_storeRegs_of_le h, fun _ hr => read_storedRegs s s.mem s.i.toNat hr,
      fun _ ha => read_writeBytes_outside s.mem hlen ha, onlyMemoryChanges_setMem s _⟩
  · intro h a ha
    exact ⟨_, congrArg Host.Outcome.next (storeAtIndex_of_gt hlen h), faultState_at_instrAddr ha _⟩

/-! ## The block load (R156) -/

theorem exec_loadRegs_of_le {x : RegIx} {s : State} (h : s.i.toNat + x.val ≤ 0xFFF) :
    exec (.loadRegs x) s = .next (s.setRegs (loadRegFile s (regsUpTo x) s.v)) :=
  congrArg Host.Outcome.next (guardFault_of_pass s ((indexSpanExists_succ_iff s x.val).mpr h) _ _)

theorem exec_loadRegs_of_gt {x : RegIx} {s : State} (h : s.i.toNat + x.val > 0xFFF) :
    exec (.loadRegs x) s = .next (s.raiseFault .memOob s.instrAddr) :=
  congrArg Host.Outcome.next (guardFault_of_fail s (indexSpanExists_succ_of_gt h) _ _)

/-- The block load writes V0..Vx, each from its own address, and no other register. -/
theorem loadRegFile_regsUpTo (s : State) (x r : RegIx) : (loadRegFile s (regsUpTo x) s.v)[r] =
    if r ≤ x then Memory.read s.mem (s.i.toNat + r.val) else s.v[r] := by
  simp only [loadRegFile_getElem, mem_regsUpTo, State.indexByte, State.indexAddr]

/-- Settles O34: V0..Vx are loaded from I on, or the check of I + x fails. -/
theorem registersAreLoaded : Obligations.RegistersAreLoaded := by
  intro x s
  constructor
  · intro h
    exact ⟨_, exec_loadRegs_of_le h, loadRegFile_regsUpTo s x, onlyRegsChange_setRegs s _⟩
  · intro h a ha
    exact ⟨_, exec_loadRegs_of_gt h, faultState_at_instrAddr ha _⟩

/-! ## The writes of I (R151 to R153) -/

theorem add_zext16_toNat (a : Word) (b : Byte) : (a + zext16 b).toNat = (a.toNat + b.toNat) % 2 ^ 16 := by
  rw [BitVec.toNat_add, zext16_toNat]

/-- Five bytes a glyph: the whole byte fits, so the product does not wrap. -/
theorem glyph_addr_toNat (b : Byte) : (5 * zext16 b).toNat = 5 * b.toNat := by
  have hb : b.toNat < 256 := b.isLt
  have hmul : (5 * zext16 b).toNat = 5 * b.toNat % 2 ^ 16 := by rw [BitVec.toNat_mul, zext16_toNat]; rfl
  omega

/-- Settles O31: each of the three is one write of I. -/
theorem indexRegisterWrites : Obligations.IndexRegisterWrites :=
  fun x nnn s =>
    ⟨⟨_, rfl, immAddr_toNat nnn, onlyIndexChanges_setIndex s _⟩,
      ⟨_, rfl, add_zext16_toNat s.i (s.reg x), onlyIndexChanges_setIndex s _⟩,
      ⟨_, rfl, glyph_addr_toNat (s.reg x), onlyIndexChanges_setIndex s _⟩⟩

end Sys2Proof.Machine
end

section
/-! PROOFS. The display unit (44_display.md): a toggle cell by cell, a draw row by row against the picture of the state before it
(R175 to R179), and the steps that can change the display (R173). -/

namespace Sys2Proof.Machine

/-! ## Toggle and clear (R171, R172, R174) -/

/-- Toggle names its cell modulo the size of the display. -/
theorem toggle_wraps (d : Display) {px px' py py' : Nat} (hx : px % 64 = px' % 64) (hy : py % 32 = py' % 32) :
    Display.toggle d px py = Display.toggle d px' py' := by
  have hrow : rowIndex py = rowIndex py' := (rowIndex_eq_iff py py').mpr hy
  simp only [Display.toggle, Display.cell, hx, hrow]

theorem toggle_toggle (d : Display) (px py : Nat) : (Display.toggle (Display.toggle d px py).1 px py).1 = d := by
  apply display_ext
  intro cx cy _ _
  rw [cell_toggle, cell_toggle, Bool.xor_assoc, Bool.xor_self, Bool.xor_false]

/-- Settles O36: `cell_toggle` says which cell flips, and both coordinates are read modulo the size. -/
theorem toggleFlipsOneCell : Obligations.ToggleFlipsOneCell := by
  intro d px py
  refine ⟨fun cx cy hcx hcy => ?_, rfl, toggle_wraps d (Nat.add_mod_right px 64) rfl,
    toggle_wraps d rfl (Nat.add_mod_right py 32), toggle_toggle d px py⟩
  rw [cell_toggle, Nat.mod_eq_of_lt hcx, Nat.mod_eq_of_lt hcy]
  by_cases h : cx = px % 64 ∧ cy = py % 32
  · simp [← h.1, ← h.2]
  · have h' : ¬ (px % 64 = cx ∧ py % 32 = cy) := fun e => h ⟨e.1.symm, e.2.symm⟩
    simp only [h, h', decide_false, Bool.xor_false, if_false]

/-- Settles O37: CLS is one write of the cleared display. -/
theorem clearScreen : Obligations.ClearScreen :=
  fun s => ⟨s.setDisp Display.clear, rfl, fun cx cy _ _ => cell_clear cx cy, rfl, fun _ => rfl⟩

/-! ## Who writes the display (R173) -/

theorem ExecEffect.writes_display {s t : State} {i : Instr} (h : ExecEffect s i t) (hne : ¬ SameDisplay s t) :
    i = .cls ∨ ∃ x y n, i = .drw x y n := by
  cases h with
  | cls => exact .inl rfl
  | drw x y n d v hv => exact .inr ⟨x, y, n, rfl⟩
  | _ => exact absurd (fun _ _ => rfl) hne

/-- Settles O53, transition by transition: the frame controller's own moves keep the display, an instruction that writes it is CLS or
DRW, and a load that does not fit is refused whole. -/
theorem displayChangesOnlyByItsUnit : Obligations.DisplayChangesOnlyByItsUnit := by
  intro s t h hne
  cases Transition.of_step h with
  | reset hp rest hq => exact .inr (.inr ⟨hp, .inl ⟨rest, hq⟩⟩)
  | load hp bytes rest hq =>
    rcases Nat.lt_or_ge 3584 bytes.length with hgt | hle
    · exact absurd (fun _ _ => by rw [loadProgram_of_gt s hgt]) hne
    · exact .inr (.inr ⟨hp, .inr ⟨bytes, rest, hq, hle⟩⟩)
  | run i u hi he =>
    rcases he.writes_display hne with rfl | ⟨x, y, n, rfl⟩
    · exact .inl hi
    · exact .inr (.inl ⟨x, y, n, hi⟩)
  | _ => exact absurd (fun _ _ => rfl) hne

/-! ## The check of the sprite's rows (R176) -/

theorem exec_drw_of_le {x y : RegIx} {n : BitVec 4} {s : State}
    (h : rowCount s y n = 0 ∨ s.i.toNat + rowCount s y n - 1 ≤ 0xFFF) :
    exec (.drw x y n) s = .next (drawSprite x (rowCount s y n) 0 (startRow s y) (s.setReg regF 0)) :=
  congrArg Host.Outcome.next (guardFault_of_pass s ((spanExists_iff _ _).mpr h) _ _)

theorem exec_drw_of_gt {x y : RegIx} {n : BitVec 4} {s : State} (hrows : rowCount s y n ≠ 0)
    (h : s.i.toNat + rowCount s y n - 1 > 0xFFF) :
    exec (.drw x y n) s = .next (s.raiseFault .memOob s.instrAddr) :=
  congrArg Host.Outcome.next (guardFault_of_fail s
    (Bool.eq_false_iff.mpr (mt (spanExists_iff _ _).mp (not_or.mpr ⟨hrows, Nat.not_le_of_gt h⟩))) _ _)

/-- Settles O40: the check fails before VF or a cell is written. -/
theorem drawOutOfRangeFaults : Obligations.DrawOutOfRangeFaults :=
  fun _ _ _ _ _ ha hrows h => ⟨_, exec_drw_of_gt hrows h, faultState_at_instrAddr ha _⟩

/-! ## The picture of the first rows of a draw -/

/-- Does row `r` of the draw toggle column `cx` of its display row? -/
def rowToggles (s : State) (x y : RegIx) (r cx : Nat) : Bool :=
  startColumn s x (hitBefore s x y r) ≤ cx && spriteBit s r (cx - startColumn s x (hitBefore s x y r))

/-- Do the first `rows` rows of the draw toggle cell `(cx, cy)`? -/
def rowsToggle (s : State) (x y : RegIx) (rows cx cy : Nat) : Bool :=
  startRow s y ≤ cy && cy - startRow s y < rows && rowToggles s x y (cy - startRow s y) cx

theorem drawToggles_eq (s : State) (x y : RegIx) (n : BitVec 4) (cx cy : Nat) :
    drawToggles s x y n cx cy = rowsToggle s x y (rowCount s y n) cx cy :=
  Bool.and_assoc _ _ _

theorem rowsToggle_zero (s : State) (x y : RegIx) (cx cy : Nat) : rowsToggle s x y 0 cx cy = false := by
  simp [rowsToggle]

/-- The next row toggles cells of its own display row only. -/
theorem rowsToggle_succ (s : State) (x y : RegIx) (rows cx cy : Nat) :
    rowsToggle s x y (rows + 1) cx cy =
      (rowsToggle s x y rows cx cy ^^ (decide (cy = startRow s y + rows) && rowToggles s x y rows cx)) := by
  by_cases hcy : cy = startRow s y + rows
  · subst hcy
    simp [rowsToggle]
  · have hlt : startRow s y ≤ cy → (cy - startRow s y < rows + 1 ↔ cy - startRow s y < rows) := by omega
    by_cases hle : startRow s y ≤ cy
    · simp [rowsToggle, hcy, hle, hlt hle]
    · simp [rowsToggle, hcy, hle]

/-- Only row `r` of the draw reaches the display row `r` below the first. -/
theorem rowsToggle_at_row (s : State) (x y : RegIx) (rows r cx : Nat) :
    rowsToggle s x y rows cx (startRow s y + r) = (decide (r < rows) && rowToggles s x y r cx) := by
  simp [rowsToggle]

theorem startRow_add_rowCount_le (s : State) (y : RegIx) (n : BitVec 4) : startRow s y + rowCount s y n ≤ 32 := by
  have hrow : startRow s y ≤ 32 := by unfold startRow; split <;> omega
  have hcount : rowCount s y n ≤ 32 - startRow s y := Nat.min_le_right _ _
  omega

theorem startColumn_lt (s : State) (x : RegIx) (hit : Bool) : startColumn s x hit < 64 := by
  unfold startColumn
  split
  · cases hit <;> decide
  · exact Nat.mod_lt _ (by decide)

/-! ## One row of the model against the picture -/

theorem bitsHit_eq_rowHits (s : State) (r c cy : Nat) :
    bitsHit (s.indexByte r) cy 8 c s.disp = rowHits s r c cy := by
  have bits : ∀ k ∈ List.range 8, (s.indexByte r).getLsbD (8 - 1 - k) = spriteBit s r k := by
    intro k hk
    simp [spriteBit, List.mem_range.mp hk, State.indexByte, State.indexAddr]
  rw [bitsHit, rowHits, Bool.eq_iff_iff, List.any_eq_true, List.any_eq_true]
  exact exists_congr fun k => and_congr_right fun hk => by rw [bits k hk]

theorem bitsToggle_eq_rowToggles (s : State) (x y : RegIx) (r cx cy cy' : Nat) :
    bitsToggle (s.indexByte r) cy' 8 (startColumn s x (hitBefore s x y r)) cx cy =
      (decide (cy = cy') && rowToggles s x y r cx) := by
  simp only [bitsToggle, rowToggles, spriteBit, State.indexByte, State.indexAddr, Bool.and_assoc]

/-! ## The rows drawn so far (R175, R177 to R179) -/

/-- A flag that is set stays set (R178). -/
theorem set_flag_or (v : Vector Byte 16) (hit new : Bool) :
    (if new then (v.set regF (flagByte hit)).set regF 1 else v.set regF (flagByte hit)) =
      v.set regF (flagByte (hit || new)) := by
  cases new
  · simp
  · simp [flagByte]

/-- `t` is what the first `rows` rows of a draw make of `s`: VF says whether one of them collided, the cells of their picture are
flipped, and nothing else differs. -/
structure RowsDrawn (s : State) (x y : RegIx) (rows : Nat) (t : State) : Prop where
  frame : t = { s with disp := t.disp, v := s.v.set regF (flagByte (hitBefore s x y rows)) }
  cells : ∀ cx cy, cx < 64 → cy < 32 → Display.cell t.disp cx cy = (Display.cell s.disp cx cy ^^ rowsToggle s x y rows cx cy)

section
variable {s t : State} {x y : RegIx} {rows : Nat}

theorem RowsDrawn.reg (h : RowsDrawn s x y rows t) (r : RegIx) :
    t.v[r] = if r = regF then flagByte (hitBefore s x y rows) else s.v[r] := by
  rw [h.frame]
  exact regs_set s.v regF r _

theorem RowsDrawn.indexByte (h : RowsDrawn s x y rows t) (r : Nat) : t.indexByte r = s.indexByte r := by
  rw [h.frame]
  rfl

/-- The start column of the next row is read from Vx as the rows before have left it (R179). -/
theorem RowsDrawn.column (h : RowsDrawn s x y rows t) :
    (t.reg x).toNat % 64 = startColumn s x (hitBefore s x y rows) := by
  rw [State.reg, h.reg x, startColumn]
  split
  · cases hitBefore s x y rows <;> rfl
  · rfl

/-- Before the first row VF has been cleared (R175). -/
theorem RowsDrawn.zero (s : State) (x y : RegIx) : RowsDrawn s x y 0 (s.setReg regF 0) where
  frame := rfl
  cells cx cy _ _ := by rw [rowsToggle_zero, Bool.xor_false, setReg_disp]

/-- No row so far has touched the display row of the next one, so it collides as it would on the display of `s`. -/
theorem RowsDrawn.bitsHit_next (h : RowsDrawn s x y rows t) (hrow : startRow s y + rows < 32) (c : Nat) :
    bitsHit (s.indexByte rows) (startRow s y + rows) 8 c t.disp = rowHits s rows c (startRow s y + rows) := by
  rw [← bitsHit_eq_rowHits]
  apply bitsHit_congr
  intro cx _ hcx
  rw [h.cells cx _ hcx hrow, rowsToggle_at_row, decide_eq_false (Nat.lt_irrefl rows), Bool.false_and, Bool.xor_false]

theorem RowsDrawn.succ (h : RowsDrawn s x y rows t) (hrow : startRow s y + rows < 32) :
    RowsDrawn s x y (rows + 1)
      (drawBits (t.indexByte rows) (startRow s y + rows) 8 ((t.reg x).toNat % 64) t) := by
  rw [h.indexByte, h.column]
  obtain ⟨hframe, hcells⟩ := drawBits_spec (s.indexByte rows) (startRow s y + rows) hrow 8
    (startColumn s x (hitBefore s x y rows)) t (startColumn_lt s x _)
  refine ⟨hframe.trans ?_, fun cx cy hcx hcy => ?_⟩
  · have hv : t.v = s.v.set regF (flagByte (hitBefore s x y rows)) := congrArg State.v h.frame
    rw [h.bitsHit_next hrow, hv, set_flag_or, h.frame]
    rfl
  · rw [hcells cx cy hcx hcy, h.cells cx cy hcx hcy, bitsToggle_eq_rowToggles, rowsToggle_succ, Bool.xor_assoc]

end

/-- The draw of `rows` rows, row by row. -/
theorem drawSprite_rowsDrawn (s : State) (x y : RegIx) (rows : Nat) (hrows : startRow s y + rows ≤ 32) :
    RowsDrawn s x y rows (drawSprite x rows 0 (startRow s y) (s.setReg regF 0)) := by
  induction rows with
  | zero => exact .zero s x y
  | succ rows ih =>
    rw [drawSprite_succ, Nat.zero_add]
    exact (ih (Nat.le_of_succ_le hrows)).succ hrows

/-- A draw whose rows exist draws all of them. -/
theorem exec_drw_rowsDrawn {x y : RegIx} {n : BitVec 4} {s : State}
    (h : rowCount s y n = 0 ∨ s.i.toNat + rowCount s y n - 1 ≤ 0xFFF) :
    ∃ t, exec (.drw x y n) s = .next t ∧ RowsDrawn s x y (rowCount s y n) t :=
  ⟨_, exec_drw_of_le h, drawSprite_rowsDrawn s x y _ (startRow_add_rowCount_le s y n)⟩

theorem RowsDrawn.of_exec {x y : RegIx} {n : BitVec 4} {s t : State}
    (h : rowCount s y n = 0 ∨ s.i.toNat + rowCount s y n - 1 ≤ 0xFFF) (ht : exec (.drw x y n) s = .next t) :
    RowsDrawn s x y (rowCount s y n) t := by
  obtain ⟨u, hu, hdrawn⟩ := exec_drw_rowsDrawn (x := x) h
  obtain rfl : u = t := Host.Outcome.next.inj (hu.symm.trans ht)
  exact hdrawn

/-- Settles O38: all rows are drawn, and the picture of all rows is `drawToggles`. -/
theorem drawXorsClippedSprite : Obligations.DrawXorsClippedSprite := by
  intro x y n s h
  obtain ⟨t, ht, hdrawn⟩ := exec_drw_rowsDrawn (x := x) h
  refine ⟨t, ht, fun cx cy hcx hcy => ?_, hdrawn.reg regF, fun r hr => (hdrawn.reg r).trans (if_neg hr), ?_, fun a => ?_⟩
  · rw [drawToggles_eq]
    exact hdrawn.cells cx cy hcx hcy
  · rw [hdrawn.frame]
  · rw [hdrawn.frame]

/-! ## The collision flag (R178) -/

theorem hitBefore_iff_row (s : State) (x y : RegIx) (rows : Nat) : hitBefore s x y rows = true ↔
    ∃ r < rows, rowHits s r (startColumn s x (hitBefore s x y r)) (startRow s y + r) = true := by
  induction rows with
  | zero => simp [hitBefore]
  | succ rows ih => simp only [hitBefore, Bool.or_eq_true, ih, Nat.exists_lt_succ_right]

/-- A row collides when it toggles a lit cell of its display row. -/
theorem rowHits_iff (s : State) (x y : RegIx) (r cy : Nat) :
    rowHits s r (startColumn s x (hitBefore s x y r)) cy = true ↔
      ∃ cx < 64, Display.cell s.disp cx cy = true ∧ rowToggles s x y r cx = true := by
  simp only [rowHits, rowToggles, List.any_eq_true, List.mem_range, Bool.and_eq_true, decide_eq_true_eq]
  generalize startColumn s x (hitBefore s x y r) = c
  constructor
  · rintro ⟨k, -, ⟨hk, hbit⟩, hcell⟩
    exact ⟨c + k, hk, hcell, Nat.le_add_right c k, (Nat.add_sub_cancel_left c k).symm ▸ hbit⟩
  · rintro ⟨cx, hcx, hcell, hle, hbit⟩
    have hlt : cx - c < 8 := by simpa using (Bool.and_eq_true_iff.mp hbit).1
    have hcol : c + (cx - c) = cx := by omega
    exact ⟨cx - c, hlt, ⟨hcol.symm ▸ hcx, hbit⟩, hcol.symm ▸ hcell⟩

/-- The rows of a draw collide exactly when they toggle a lit cell. -/
theorem hitBefore_iff_cell (s : State) (x y : RegIx) (rows : Nat) (hrows : startRow s y + rows ≤ 32) :
    hitBefore s x y rows = true ↔
      ∃ cx cy, cx < 64 ∧ cy < 32 ∧ Display.cell s.disp cx cy = true ∧ rowsToggle s x y rows cx cy = true := by
  simp only [hitBefore_iff_row, rowHits_iff]
  constructor
  · rintro ⟨r, hr, cx, hcx, hcell, hbit⟩
    refine ⟨cx, startRow s y + r, hcx, by omega, hcell, ?_⟩
    rw [rowsToggle_at_row, hbit, decide_eq_true hr, Bool.and_true]
  · rintro ⟨cx, cy, hcx, -, hcell, htoggle⟩
    simp only [rowsToggle, Bool.and_eq_true, decide_eq_true_eq] at htoggle
    obtain ⟨⟨hle, hlt⟩, hbit⟩ := htoggle
    exact ⟨cy - startRow s y, hlt, cx, hcx, (Nat.add_sub_cancel' hle).symm ▸ hcell, hbit⟩

/-- Settles O39: a lit cell goes off exactly when a row toggles it. -/
theorem collisionFlagOfADraw : Obligations.CollisionFlagOfADraw := by
  intro x y n s t h ht
  have hdrawn := RowsDrawn.of_exec h ht
  have hvf : t.v[15] = flagByte (hitBefore s x y (rowCount s y n)) := hdrawn.reg regF
  have hiff := hitBefore_iff_cell s x y _ (startRow_add_rowCount_le s y n)
  rw [hvf]
  cases hhit : hitBefore s x y (rowCount s y n) with
  | true =>
    obtain ⟨cx, cy, hcx, hcy, hcell, htoggle⟩ := hiff.mp hhit
    refine .inl ⟨rfl, cx, cy, hcx, hcy, hcell, ?_⟩
    rw [hdrawn.cells cx cy hcx hcy, hcell, htoggle]
    rfl
  | false =>
    refine .inr ⟨rfl, fun cx cy hcx hcy hcell => ?_⟩
    have htoggle : rowsToggle s x y (rowCount s y n) cx cy = false := by
      rw [Bool.eq_false_iff]
      exact fun htoggle => Bool.false_ne_true (hhit.symm.trans (hiff.mpr ⟨cx, cy, hcx, hcy, hcell, htoggle⟩))
    rw [hdrawn.cells cx cy hcx hcy, hcell, htoggle]
    rfl

/-! ## Drawing twice (R180) -/

section
variable {s t : State} {x y : RegIx} {rows : Nat}

theorem RowsDrawn.startRow_eq (h : RowsDrawn s x y rows t) (hy : y ≠ regF) : startRow t y = startRow s y := by
  rw [startRow, startRow, if_neg hy, if_neg hy, h.reg y, if_neg hy]

theorem RowsDrawn.rowCount_eq (h : RowsDrawn s x y rows t) (hy : y ≠ regF) (n : BitVec 4) :
    rowCount t y n = rowCount s y n := by
  rw [rowCount, rowCount, h.startRow_eq hy]

/-- A start column read from another register than VF is the same in every row of both draws. -/
theorem RowsDrawn.startColumn_eq (h : RowsDrawn s x y rows t) (hx : x ≠ regF) (hit hit' : Bool) :
    startColumn t x hit = startColumn s x hit' := by
  rw [startColumn, startColumn, if_neg hx, if_neg hx, h.reg x, if_neg hx]

theorem RowsDrawn.spriteBit_eq (h : RowsDrawn s x y rows t) (r k : Nat) : spriteBit t r k = spriteBit s r k := by
  rw [h.frame]
  rfl

/-- The second draw has the picture of the first. -/
theorem RowsDrawn.rowsToggle_eq (h : RowsDrawn s x y rows t) (hx : x ≠ regF) (hy : y ≠ regF) (m cx cy : Nat) :
    rowsToggle t x y m cx cy = rowsToggle s x y m cx cy := by
  simp only [rowsToggle, rowToggles, h.startRow_eq hy, h.spriteBit_eq,
    h.startColumn_eq hx _ (hitBefore s x y (cy - startRow s y))]

end

/-- Settles O41: both draws have one picture, and flipping its cells twice flips none. -/
theorem drawingTwiceRestores : Obligations.DrawingTwiceRestores := by
  intro x y n s t u hx hy h ht hu
  have hfirst := RowsDrawn.of_exec h ht
  have hrows := hfirst.rowCount_eq hy n
  have hi : t.i = s.i := by rw [hfirst.frame]
  have h' : rowCount t y n = 0 ∨ t.i.toNat + rowCount t y n - 1 ≤ 0xFFF := by rwa [hrows, hi]
  have hsecond := RowsDrawn.of_exec h' hu
  have hdisp : u.disp = s.disp := by
    apply display_ext
    intro cx cy hcx hcy
    rw [hsecond.cells cx cy hcx hcy, hfirst.cells cx cy hcx hcy, hrows, hfirst.rowsToggle_eq hx hy, Bool.xor_assoc,
      Bool.xor_self, Bool.xor_false]
  refine ⟨hdisp, ?_⟩
  have hflag := collisionFlagOfADraw x y n t u h' hu
  rw [hdisp] at hflag
  rcases hflag with ⟨hvf, cx, cy, hcx, hcy, hon, hoff⟩ | ⟨hvf, hkept⟩
  · exact iff_of_true hvf ⟨cx, cy, hcx, hcy, hoff, hon⟩
  · refine iff_of_false (by rw [hvf]; decide) ?_
    rintro ⟨cx, cy, hcx, hcy, hoff, hon⟩
    exact Bool.false_ne_true (hoff.symm.trans (hkept cx cy hcx hcy hon))

end Sys2Proof.Machine
end

section
/-! PROOFS. Keys and timers (45_input_timers.md): the two key skips are one test of the latch, the key wait is a register write or a
write of PC by what the latch holds, and a timer move is one update. No instruction writes the latch (R224). -/

namespace Sys2Proof.Machine

/-! ## The key wait (R193) -/

theorem exec_ldVxK_of_some {s : State} {k : KeyCode} (h : s.key = some k) (x : RegIx) :
    exec (.ldVxK x) s = .next (s.setReg x (k.setWidth 8)) := by
  simp only [exec, execLdVxK, h]

theorem exec_ldVxK_of_none {s : State} (h : s.key = none) (x : RegIx) :
    exec (.ldVxK x) s = .next (s.setPc s.instrAddr) := by
  simp only [exec, execLdVxK, h, State.instrAddr]

/-- Going back to the instruction's address undoes the fetch advance (R89). -/
theorem setPc_instrAddr_advance (s : State) : s.advance.setPc s.advance.instrAddr = s :=
  congrArg s.advance.setPc (instrAddr_advance s)

/-- Settles O44: with no key the wait undoes the fetch advance, so the slot is all that is used (R93). -/
theorem keyWaitStepLeavesPc : Obligations.KeyWaitStepLeavesPc := by
  intro x s ⟨hs, hpc, hw⟩ hk
  have hkey : s.advance.key = none := hk
  rw [step_fetched hs hpc, execWord_known hw, exec_ldVxK_of_none hkey, setPc_instrAddr_advance]
  rfl

/-- A key code is less than 16, so it stands in a register as itself (R30). -/
theorem keyByte_toNat (k : KeyCode) : (k.setWidth 8 : Byte).toNat = k.toNat :=
  BitVec.toNat_setWidth_of_le (by decide)

/-- Settles O43: a latched key is written to Vx; with none the write is of PC, back to the instruction. -/
theorem keyWaitTakesKeyOrRewinds : Obligations.KeyWaitTakesKeyOrRewinds := by
  intro x s
  refine ⟨fun k hk => ⟨_, exec_ldVxK_of_some hk x, ?_⟩, fun hk => ⟨_, exec_ldVxK_of_none hk x, rfl, onlyPcChanges_setPc s _⟩⟩
  exact (setReg_effect s x (k.setWidth 8)).imp_left fun h => (congrArg BitVec.toNat h).trans (keyByte_toNat k)

/-! ## The key skips (R190, R191) -/

/-- The latch holds the code that Vx is, the whole of Vx: none matches nothing, and neither does a Vx above 15 (R190). -/
theorem keyMatches_iff (s : State) (x : RegIx) :
    s.keyMatches x = true ↔ ∃ k, s.key = some k ∧ k.toNat = s.v[x].toNat := by
  unfold State.keyMatches
  cases s.key with
  | none => exact iff_of_false Bool.false_ne_true fun ⟨_, hk, _⟩ => nomatch hk
  | some k =>
    simp only [Option.some.injEq, exists_eq_left']
    rw [beq_iff_eq, ← BitVec.toNat_inj, keyByte_toNat]
    exact Iff.rfl

theorem keyMatches_eq_false_iff (s : State) (x : RegIx) :
    s.keyMatches x = false ↔ ¬ ∃ k, s.key = some k ∧ k.toNat = s.v[x].toNat := by
  rw [← keyMatches_iff, Bool.not_eq_true]

/-- A skip that is taken (R100). -/
theorem skipIf_pc_of_true (s : State) {c : Bool} (h : c = true) : (s.skipIf c).pc.toNat = (s.pc.toNat + 2) % 2 ^ 16 := by
  rw [skipIf_pc_toNat, if_pos h]

/-- A skip that is not taken (R100). -/
theorem skipIf_pc_of_false (s : State) {c : Bool} (h : c = false) : (s.skipIf c).pc = s.pc :=
  h ▸ rfl

/-- Settles O42: SKP skips on the match of the latch with Vx, SKNP on its negation. -/
theorem skipOnKey : Obligations.SkipOnKey := by
  intro x s
  have hmatch := (keyMatches_iff s x).mpr
  have hnone := (keyMatches_eq_false_iff s x).mpr
  refine ⟨⟨_, rfl, onlyPcChanges_skipIf s _, ?_, ?_⟩, ⟨_, rfl, onlyPcChanges_skipIf s _, ?_, ?_⟩⟩
  · exact fun hk => skipIf_pc_of_true s (hmatch hk)
  · exact fun hk => skipIf_pc_of_false s (hnone hk)
  · exact fun hk => skipIf_pc_of_false s (congrArg not (hmatch hk))
  · exact fun hk => skipIf_pc_of_true s (congrArg not (hnone hk))

/-! ## The timers (R192, R194, R195) -/

/-- Settles O45: the read is a plain result, and each write is the update of its timer alone. -/
theorem timerMoves : Obligations.TimerMoves :=
  fun x s =>
    ⟨⟨_, rfl, setReg_effect s x s.dt⟩,
      ⟨s.setDelay (s.reg x), rfl, rfl, fun _ => rfl, fun _ _ => rfl⟩,
      ⟨s.setSound (s.reg x), rfl, rfl, fun _ => rfl, fun _ _ => rfl⟩⟩

end Sys2Proof.Machine
end

section
/-! PROOFS. Faults and random draws (60_exceptions.md): a fault is recorded by the failing check of an instruction and by nothing it
completes, it stays until the host's reset or load, and a draw is consumed by RND alone. -/

namespace Sys2Proof.Machine

/-! ## No step stops the machine (R211, R212) -/

/-- Settles O48: every step is a transition of the frame controller. -/
theorem everyStepAnswersNext : Obligations.EveryStepAnswersNext :=
  fun s => (exists_transition s).imp fun _ h => h.1

/-! ## Taking a fault (R210, R211, R213) -/

/-- Settles O49, by the effects an instruction can have: its three faults are `State.raiseFault` at its own address, and every other
effect leaves FAULT_CAUSE. -/
theorem faultsArePrecise : Obligations.FaultsArePrecise := by
  intro i s t a ha hf h hne
  cases ExecEffect.of_exec h with
  | underflow hsp => exact ⟨faultState_at_instrAddr ha _, .inl ⟨rfl, rfl, hsp⟩⟩
  | overflow nnn hsp => exact ⟨faultState_at_instrAddr ha _, .inr (.inl ⟨rfl, ⟨nnn, rfl⟩, hsp⟩)⟩
  | outOfRange hi => exact ⟨faultState_at_instrAddr ha _, .inr (.inr ⟨rfl, hi⟩)⟩
  | _ => exact absurd hf hne

/-! ## A recorded fault stays (R92, R212, R248) -/

/-- Settles O50, transition by transition: no step slot runs on a faulted core, reset and a load that fits clear the fault, and the
frame controller's other moves leave the pieces of state the statement lists. -/
theorem faultIsSticky : Obligations.FaultIsSticky := by
  intro s t hf h
  cases Transition.of_step h with
  | fetchFault hs | unknown hs => exact absurd hs.noFault hf
  | run i u hi he => exact absurd hi.inSlot.noFault hf
  | reset hp rest hq => exact .inl ⟨⟨hp, .inl ⟨rest, hq⟩⟩, rfl, rfl⟩
  | load hp bytes rest hq =>
    rcases Nat.lt_or_ge 3584 bytes.length with hgt | hle
    · rw [loadProgram_of_gt s hgt]
      exact .inr ⟨rfl, rfl, rfl, rfl, rfl, rfl, rfl, fun _ => rfl, fun _ _ => rfl⟩
    · rw [loadProgram_of_le s hle]
      exact .inl ⟨⟨hp, .inr ⟨bytes, rest, hq, hle⟩⟩, rfl, rfl⟩
  | hold | startFrame | endExec | passSlot | endFrame =>
    exact .inr ⟨rfl, rfl, rfl, rfl, rfl, rfl, rfl, fun _ => rfl, fun _ _ => rfl⟩

/-! ## Random draws (R229) -/

/-- The draws supplied and the count of those consumed are the same. -/
def SameDraws (s t : State) : Prop := t.port.rand = s.port.rand ∧ t.port.draws = s.port.draws

theorem not_sameDraws_iff {s t : State} :
    ¬ SameDraws s t ↔ t.port.rand ≠ s.port.rand ∨ t.port.draws ≠ s.port.draws := not_and_or

/-- A load, of a program that fits or not, leaves the host's draws (log 7). -/
theorem sameDraws_loadProgram (s : State) (bytes : List Byte) (rest : List Command) :
    SameDraws s (s.loadProgram bytes rest) := by
  rcases Nat.lt_or_ge 3584 bytes.length with hgt | hle
  · exact loadProgram_of_gt s hgt rest ▸ ⟨rfl, rfl⟩
  · exact loadProgram_of_le s hle rest ▸ ⟨rfl, rfl⟩

theorem ExecEffect.takes_draw {s t : State} {i : Instr} (h : ExecEffect s i t) (hne : ¬ SameDraws s t) :
    ∃ x kk, i = .rnd x kk := by
  cases h with
  | rnd x kk => exact ⟨x, kk, rfl⟩
  | _ => exact absurd ⟨rfl, rfl⟩ hne

theorem Transition.takes_draw {s t : State} (ht : Transition s t) (hne : ¬ SameDraws s t) :
    ∃ x kk, s.Fetches (.rnd x kk) := by
  cases ht with
  | load _ bytes rest => exact absurd (sameDraws_loadProgram s bytes rest) hne
  | run i u hi he =>
    obtain ⟨x, kk, rfl⟩ := he.takes_draw hne
    exact ⟨x, kk, hi⟩
  | _ => exact absurd ⟨rfl, rfl⟩ hne

/-- Settles O59: a transition that takes a draw runs an instruction that takes one. -/
theorem onlyRndDraws : Obligations.OnlyRndDraws :=
  fun _ _ h hne => (Transition.of_step h).takes_draw (not_sameDraws_iff.mpr hne)

end Sys2Proof.Machine
end

section
/-! PROOFS. Load, and what may change while a frame runs (70_reset_and_hazards.md): a program is copied into the reset memory or refused
whole, a jump to itself makes no headway, and the key, the timers and the outputs keep to their own writers. -/

namespace Sys2Proof.Machine

/-! ## Load (R243, R244) -/

theorem step_load {s : State} {bytes : List Byte} {rest : List Command} (hp : s.phase = .idle)
    (hq : s.port.commands = .load bytes :: rest) : step s = .next (s.loadProgram bytes rest) := by
  rw [step_idle hp, idleStep_load hq]

/-- Settles O15: the step is `State.loadProgram` of a program that fits, a store of its bytes from 0x200 into the reset memory. -/
theorem loadResetsAndCopies : Obligations.LoadResetsAndCopies := by
  intro s bytes rest hp hq hle
  refine ⟨_, step_load hp hq, ?_⟩
  rw [loadProgram_of_le s hle]
  exact ⟨read_writeBytes bytes State.reset.mem Config.programBase, rfl, rfl⟩

/-- Settles O16: the step is `State.loadProgram` of a program that does not fit. -/
theorem loadTooLargeChangesNothing : Obligations.LoadTooLargeChangesNothing := by
  intro s bytes rest hp hq hgt
  rw [step_load hp hq, loadProgram_of_gt s hgt]

/-! ## A jump to itself (R249) -/

/-- A jump to the address the fetch advanced from undoes the advance (R89, R102). -/
theorem setPc_immAddr_advance {s : State} {nnn : BitVec 12} (h : nnn.toNat = s.pc.toNat) :
    s.advance.setPc (immAddr nnn) = s :=
  congrArg s.setPc (BitVec.eq_of_toNat_eq ((immAddr_toNat nnn).trans h))

/-- Settles O23: the jump undoes the fetch advance, so the slot is all that is used. -/
theorem jumpToItselfHangs : Obligations.JumpToItselfHangs := by
  intro s nnn ⟨hs, hpc, hw⟩ hself
  have hexec : exec (.jp nnn) s.advance = .next s := congrArg Host.Outcome.next (setPc_immAddr_advance hself)
  rw [step_fetched hs hpc, execWord_known hw, hexec]
  rfl

/-! ## The key and the timers within a frame (R251, R252) -/

theorem ExecEffect.writes_delay {s t : State} {i : Instr} (h : ExecEffect s i t) (hne : t.dt ≠ s.dt) :
    ∃ x, i = .ldDtVx x := by
  cases h with
  | delay x => exact ⟨x, rfl⟩
  | _ => exact absurd rfl hne

theorem ExecEffect.writes_sound {s t : State} {i : Instr} (h : ExecEffect s i t) (hne : t.st ≠ s.st) :
    ∃ x, i = .ldStVx x := by
  cases h with
  | sound x => exact ⟨x, rfl⟩
  | _ => exact absurd rfl hne

/-- Settles O55, transition by transition: in EXEC only an instruction can write a timer, and none writes the latch (R224). -/
theorem keyAndTimersWithinAFrame : Obligations.KeyAndTimersWithinAFrame := by
  intro s t hp h
  cases Transition.of_step h with
  | hold hi | reset hi | load hi | startFrame hi | endFrame hi => cases hp.symm.trans hi
  | endExec | passSlot | fetchFault | unknown => exact ⟨rfl, absurd rfl, absurd rfl⟩
  | run i u hi he =>
    refine ⟨he.sameController.key, fun hdt => ?_, fun hst => ?_⟩
    · obtain ⟨x, rfl⟩ := he.writes_delay hdt
      exact ⟨x, hi⟩
    · obtain ⟨x, rfl⟩ := he.writes_sound hst
      exact ⟨x, hi⟩

/-! ## The published outputs (R34, R253) -/

/-- The published outputs are the same. -/
def SameOutputs (s t : State) : Prop := t.outDisp = s.outDisp ∧ t.outSound = s.outSound ∧ t.outDiag = s.outDiag

theorem not_sameOutputs_iff {s t : State} :
    ¬ SameOutputs s t ↔ t.outDisp ≠ s.outDisp ∨ t.outSound ≠ s.outSound ∨ t.outDiag ≠ s.outDiag := by
  rw [SameOutputs, not_and_or, not_and_or]

theorem ExecEffect.sameOutputs {s t : State} {i : Instr} (h : ExecEffect s i t) : SameOutputs s t :=
  ⟨h.sameController.outDisp, h.sameController.outSound, h.sameController.outDiag⟩

/-- A load that changes the outputs fits, since one that does not is refused whole (R244). -/
theorem le_of_loadProgram_not_sameOutputs {s : State} {bytes : List Byte} {rest : List Command}
    (hne : ¬ SameOutputs s (s.loadProgram bytes rest)) : bytes.length ≤ 3584 := by
  by_contra hlong
  rw [loadProgram_of_gt s (by omega)] at hne
  exact hne ⟨rfl, rfl, rfl⟩

theorem Transition.publishes {s t : State} (ht : Transition s t) (hne : ¬ SameOutputs s t) :
    s.phase = .tick ∨ s.Recovers := by
  cases ht with
  | endFrame hp => exact .inl hp
  | reset hp rest hq => exact .inr ⟨hp, .inl ⟨rest, hq⟩⟩
  | load hp bytes rest hq => exact .inr ⟨hp, .inr ⟨bytes, rest, hq, le_of_loadProgram_not_sameOutputs hne⟩⟩
  | run i u hi he => exact absurd he.sameOutputs hne
  | _ => exact absurd ⟨rfl, rfl, rfl⟩ hne

/-- Settles O57: a transition that changes an output is the end of a frame, a reset or a load that fits. -/
theorem outputsChangeOnlyAtFrameEnd : Obligations.OutputsChangeOnlyAtFrameEnd :=
  fun _ _ h hne => (Transition.of_step h).publishes (not_sameOutputs_iff.mpr hne)

end Sys2Proof.Machine
end
